-- ==== Sys2Proof/Word.lean ====
section
/-! DEFINITION. The two word types: a pixel is one unsigned byte (R8, R10), a register and a command word are 32 bits
(R8, R68). Bits are numbered from the least significant (R9), as `BitVec.extractLsb'` does. -/

namespace Sys2Proof

/-- One pixel-memory byte, "an element of {0..255}" (R10). -/
abbrev Byte := BitVec 8

/-- One register, one bus word, one command word (R8, R67). -/
abbrev Word := BitVec 32

end Sys2Proof
end

