-- ==== Sys2Proof/Config.lean ====
section
/-! DEFINITION. What an implementation fixes (00_scope.md R7) and the free values of the model: constants with no body,
so that no proof can see a value of them (93_implementation_defined.md U1, U2, U5, U13, U21). -/

namespace Sys2Proof

/-- The launch parameters of R7. `BASE_ADDR` is 32 MiB aligned, so only its top 7 bits are kept. `PMEM_BYTES` is a
multiple of 1024 and is kept in KiB, as CAPS reports it (R20). `FREQ_TOL`, a real number, is kept as a rational enclosure,
`freqTolBelow / freqTolDen ≤ FREQ_TOL ≤ freqTolAbove / freqTolDen` (log entry 4): a rational value is given by equal ends,
and every other real by ends so close to it that no pixel tells them apart (`givesTolerance` in Ideal.lean).
`LATENCY` has no number: see `Turn` (log entry 1). The legal ranges are `Params.legal`. -/
structure Params where
  baseWindow : BitVec 7
  maxDim     : Nat
  pmemKib    : Nat
  freqTolBelow : Nat
  freqTolAbove : Nat
  freqTolDen : Nat
  deriving DecidableEq, Repr

/-- `PMEM_BYTES` (R7, R20). -/
def Params.pmemBytes (p : Params) : Nat := p.pmemKib * 1024

/-- `BASE_ADDR` (R7, R46): the byte address of the 32 MiB window. -/
def Params.baseAddr (p : Params) : BitVec 32 := p.baseWindow ++ 0#25

/-- The parameter snapshot `par` of a command (R40, R85), as the exact numbers of R72 to R74: gamma is `g / 256`, the
noise power is `np / 2^24`. -/
structure CommandPar where
  g   : Nat
  cut : Nat
  ord : Nat
  k   : Nat
  np  : Nat
  deriving DecidableEq, Repr

/-- FREE VALUE (R44, U1; log entry 5). What a host read returns for an unspecified byte of pixel memory: `freeByte n a` is
what offset `a` reads as in epoch `n`, "while nothing else happens" (R52). -/
opaque Config.freeByte : Nat → Nat → Byte

/-- FREE VALUE (R62, R145, U2, U5; log entry 5). What a host read returns for a byte that is "drawn per read" (U2):
`freeRead n a` is the byte of read number `n` at address `a`. -/
opaque Config.freeRead : Nat → Nat → Byte

/-- FREE VALUE (R123, U13, U21; log entry 9). The implementation's own choice for one output pixel of the
frequency-domain datapath: opcode, gray plane (rows), parameters, row, column. `freqPixel` clamps it into the range
R123 admits; nothing else is assumed of it. -/
opaque Config.freqByte : BitVec 8 → List (List Nat) → CommandPar → Nat → Nat → Byte

end Sys2Proof
end

