-- ==== Sys2Proof/Syntax.lean ====
section
/-! DEFINITION. The encoded items of 30_encoding.md R67: the commands (one constructor per row of the opcode table) and
the host's bus accesses, with the register names of 10_state.md R17. -/

namespace Sys2Proof

/-- The seven commands (R75). No command carries an operand: "Every operand comes from the registers" (R68). -/
inductive Instr where
  | nop
  | cstretch
  | gamma
  | histeq
  | butter
  | wiener
  | median
  deriving DecidableEq, Repr

/-- The six commands that run on an image: the `op` of an in-flight record (R40). NOP never gets one (R23, R93). -/
inductive ImageOp where
  | cstretch
  | gamma
  | histeq
  | butter
  | wiener
  | median
  deriving DecidableEq, Repr

/-- The width of a bus access (R69). -/
inductive Width where
  | w8
  | w16
  | w32
  deriving DecidableEq, Repr

/-- The number of bytes of an access of that width (R47). -/
def Width.bytes : Width → Nat
  | .w8  => 1
  | .w16 => 2
  | .w32 => 4

/-- The data of a bus access: "data is a width-bit value" (R69). -/
inductive Datum where
  | b8  (v : BitVec 8)
  | b16 (v : BitVec 16)
  | b32 (v : BitVec 32)
  deriving DecidableEq, Repr

/-- The width of a datum. -/
def Datum.width : Datum → Width
  | .b8 _  => .w8
  | .b16 _ => .w16
  | .b32 _ => .w32

/-- A host bus access (R69), at a 32-bit platform address (R45): `BASE_ADDR` plus the offset of R69. -/
inductive Access where
  | read  (addr : BitVec 32) (width : Width)
  | write (addr : BitVec 32) (datum : Datum)
  deriving DecidableEq, Repr

/-- The 14 registers of R17, in the order of their offsets. -/
inductive RegName where
  | id
  | caps
  | ctrl
  | status
  | cmd
  | srcBase
  | dstBase
  | dim
  | fmt
  | gamma
  | bwCutoff
  | bwOrder
  | wnKsize
  | wnNoise
  deriving DecidableEq, Repr

end Sys2Proof
end

