-- ==== Sys2Proof/WellFormed.lean ====
section
/-! DEFINITION. What is well formed: a command (R68: it has no operand, so every one is), a command word (R70) and the
launch parameters (R7's legal ranges). -/

namespace Sys2Proof

/-- Every command is well formed: "No command takes an operand in its mnemonic" (R82) and the word carries none (R68).
Written constructor by constructor, so that a command added later must say what it checks. -/
def Instr.wellFormed : Instr → Bool
  | .nop => true
  | .cstretch => true
  | .gamma => true
  | .histeq => true
  | .butter => true
  | .wiener => true
  | .median => true

/-- A word that names a command (R70): the reserved bits are 0 and the opcode is one of 0x00..0x06. -/
def wellFormedWord (w : Word) : Bool :=
  w.extractLsb' 8 24 == 0#24 && (w.extractLsb' 0 8).toNat < 7

/-- The legal range of `MAX_DIM` (R7): 1..65535. -/
def Params.maxDimLegal (p : Params) : Bool := 1 ≤ p.maxDim && p.maxDim ≤ 65535

/-- The legal range of `PMEM_BYTES` (R7): a multiple of 1024, 1024..16777216. -/
def Params.pmemLegal (p : Params) : Bool := 1 ≤ p.pmemKib && p.pmemKib ≤ 16384

/-- `FREQ_TOL` is a real number ≥ 0 (R7): the denominator of its enclosure is not 0, and the enclosure holds a number. -/
def Params.freqTolLegal (p : Params) : Bool := 1 ≤ p.freqTolDen && p.freqTolBelow ≤ p.freqTolAbove

/-- The parameters are in R7's legal ranges. `BASE_ADDR` is 32 MiB aligned by construction. -/
def Params.legal (p : Params) : Bool := p.maxDimLegal && p.pmemLegal && p.freqTolLegal

end Sys2Proof
end

