-- ==== Sys2Proof/Decode.lean ====
section
/-! DEFINITION. The command word (30_encoding.md R68 to R70, R75 to R79): a total decoder that rejects by name, the
encoder, and the disassembler's text (R82). -/

namespace Sys2Proof

/-- The OP field, bits 7:0 (R68). -/
def opField (w : Word) : BitVec 8 := w.extractLsb' 0 8

/-- The RSV field, bits 31:8 (R68). -/
def rsvField (w : Word) : BitVec 24 := w.extractLsb' 8 24

/-- Why a word is no command: both are ILLEGAL_CMD (R129). -/
inductive DecodeError where
  /-- RSV ≠ 0 (R77), "illegal whatever its OP is". -/
  | reservedBits
  /-- OP in 0x07..0xFF (R76). -/
  | reservedOpcode
  deriving DecidableEq, Repr

/-- "The decode is total: every 32-bit word is either a command or ILLEGAL_CMD" (R70). -/
inductive Decoded where
  | command (i : Instr)
  | illegal (why : DecodeError)
  deriving DecidableEq, Repr

/-- The opcode map of R75, read from the opcode. -/
def decodeOp (op : Nat) : Decoded :=
  match op with
  | 0x00 => .command .nop
  | 0x01 => .command .cstretch
  | 0x02 => .command .gamma
  | 0x03 => .command .histeq
  | 0x04 => .command .butter
  | 0x05 => .command .wiener
  | 0x06 => .command .median
  | _    => .illegal .reservedOpcode

/-- Decoding a command word (R70, R76, R77). -/
def decode (w : Word) : Decoded :=
  if rsvField w ≠ 0#24 then .illegal .reservedBits else decodeOp (opField w).toNat

/-- The opcodes of R75. -/
def Instr.opcode : Instr → BitVec 8
  | .nop      => 0x00#8
  | .cstretch => 0x01#8
  | .gamma    => 0x02#8
  | .histeq   => 0x03#8
  | .butter   => 0x04#8
  | .wiener   => 0x05#8
  | .median   => 0x06#8

/-- "Every command word is w = zext_32(OP)" (R75). -/
def encode (i : Instr) : Word := i.opcode.zeroExtend 32

/-- The opcode of an image command, as LAST_OP records it (R25, R75). -/
def ImageOp.opcode : ImageOp → BitVec 8
  | .cstretch => 0x01#8
  | .gamma    => 0x02#8
  | .histeq   => 0x03#8
  | .butter   => 0x04#8
  | .wiener   => 0x05#8
  | .median   => 0x06#8

/-- What the decoder reads from a table row's bits: the bits above `nbits` are 0. -/
def decodeTableWord (nbits w : Nat) : Option Instr :=
  match decode (BitVec.ofNat 32 (w % 2 ^ nbits)) with
  | .command i => some i
  | .illegal _ => none

/-- "Assembly mnemonics are the OP names of rule R75, in capitals" (R82). -/
def Instr.mnemonic : Instr → String
  | .nop      => "NOP"
  | .cstretch => "CSTRETCH"
  | .gamma    => "GAMMA"
  | .histeq   => "HISTEQ"
  | .butter   => "BUTTER"
  | .wiener   => "WIENER"
  | .median   => "MEDIAN"

/-- The last `n` hexadecimal digits of a number, most significant first. -/
def hexDigits : Nat → Nat → String
  | 0, _ => ""
  | n + 1, v => hexDigits n (v / 16) ++ String.singleton (Nat.digitChar (v % 16))

/-- The disassembler (R82): the mnemonic, or ".word 0x........" marked illegal. The mark's spelling is the model's
(log entry 18). -/
def disassemble (w : Word) : String :=
  match decode w with
  | .command i => i.mnemonic
  | .illegal _ => ".word 0x" ++ hexDigits 8 w.toNat ++ " ; illegal"

end Sys2Proof
end

