-- ==== Sys2Proof/Machine/State.lean ====
section
/-! DEFINITION. The state of the machine (10_state.md R44), as plain data: the registers' stored fields, the pixel
memory, the in-flight record, the launch parameters, and the model's own fields for the inputs that wait and the bus
response. Reset values: R43. -/

namespace Sys2Proof.Machine

/-- The stored register fields of R44, each with its own width only: "A model must not keep the discarded bits" (R18).
ID, CAPS, STATUS.ERR and irq are functions of the state (R44); CMD holds none (R27). -/
structure Regs where
  /-- CTRL.IE (R21) -/
  ie       : Bool
  /-- STATUS.BUSY (R23) -/
  busy     : Bool
  /-- STATUS.DONE (R24) -/
  done     : Bool
  /-- STATUS.OVR (R26) -/
  ovr      : Bool
  /-- STATUS.HAZ (R26) -/
  haz      : Bool
  /-- STATUS.ERR_CODE (R25, R129) -/
  errCode  : BitVec 4
  /-- STATUS.LAST_OP (R25) -/
  lastOp   : BitVec 8
  /-- SRC_BASE.BASE (R28) -/
  srcBase  : BitVec 24
  /-- DST_BASE.BASE (R29) -/
  dstBase  : BitVec 24
  /-- DIM.H, DIM[31:16] (R30) -/
  dimH     : BitVec 16
  /-- DIM.W, DIM[15:0] (R30) -/
  dimW     : BitVec 16
  /-- FMT.CH (R31) -/
  fmtCh    : BitVec 3
  /-- GAMMA.G, unsigned Q8.8 (R32) -/
  gammaG   : BitVec 16
  /-- BW_CUTOFF.CUT (R33) -/
  bwCut    : BitVec 16
  /-- BW_ORDER.ORD (R34) -/
  bwOrd    : BitVec 8
  /-- WN_KSIZE.K (R35) -/
  wnK      : BitVec 8
  /-- WN_NOISE.NP, unsigned Q8.24 (R36) -/
  wnNp     : BitVec 32
  deriving DecidableEq, Repr

/-- The register values after a hard or a soft reset (R43; R146: they are equal). -/
def Regs.reset : Regs where
  ie := false
  busy := false
  done := false
  ovr := false
  haz := false
  errCode := 0x0#4
  lastOp := 0x00#8
  srcBase := 0x000000#24
  dstBase := 0x000000#24
  dimH := 0x0000#16
  dimW := 0x0000#16
  fmtCh := 3#3
  gammaG := 0x0180#16
  bwCut := 30#16
  bwOrd := 2#8
  wnK := 5#8
  wnNp := 0x00028F5C#32

/-- An image operand (R13): base, height, width, channel count, as exact numbers (R71). -/
structure Image where
  base : Nat
  h    : Nat
  w    : Nat
  c    : Nat
  deriving DecidableEq, Repr

/-- The in-flight record (R40), which is also the snapshot of R85 with the opcode. -/
structure Inflight where
  op  : ImageOp
  src : Image
  dst : Image
  par : CommandPar
  deriving DecidableEq, Repr

/-- The error codes of R129, by name. -/
inductive ErrCode where
  | ok
  | illegalCmd
  | badDim
  | invalidChannelCount
  | paramOutOfRange
  | bounds
  | aliased
  deriving DecidableEq, Repr

/-- The bus's answer to a host access. -/
inductive Response where
  /-- A read's data (R69). -/
  | data (d : Datum)
  /-- A write that is no bus error; an ignored or dropped one too (log entry 16). -/
  | done
  /-- The bus's error response (R136, U7: "the model reports `fault` to its host side"; log entry 6). -/
  | fault
  deriving DecidableEq, Repr

/-- One move of one agent (40_command_flow.md opening; 20_memory.md R57). The list of turns in the state is the total
order of R57; the place of `core` in it is the latency (R7, R90; log entry 1). -/
inductive Turn where
  /-- The host makes one bus access. -/
  | host (a : Access)
  /-- The core takes its step if it has one (R90). -/
  | core
  /-- The platform asserts the reset input (R145). -/
  | assertReset
  /-- The platform releases the reset input (R145). -/
  | releaseReset
  deriving DecidableEq, Repr

/-- Pixel memory: (offset, byte) pairs, offsets strictly rising. An offset that is not listed is unspecified
(`Memory.unlisted`). -/
abbrev Memory := List Host.Cell

/-- The machine's state. -/
structure State where
  /-- The launch parameters (R7); no step changes them (log entry 3). -/
  params        : Params
  /-- The register fields (R44 `regs`). -/
  regs          : Regs
  /-- The pixel memory (R38, R44 `pmem`). -/
  pmem          : Memory
  /-- The in-flight record (R40, R44 `inflight`). -/
  inflight      : Option Inflight
  /-- The platform's reset input is asserted (R145; log entry 8). -/
  resetAsserted : Bool
  /-- The model's own field: the turns to come, first one first (log entry 1). -/
  turns         : List Turn
  /-- The model's own field: the bus response to the latest host access (log entry 11). -/
  resp          : Option Response
  /-- The model's own field: the number of the present epoch, in which nothing but reads has happened (R52; log entry 5). -/
  epoch         : Nat
  /-- The model's own field: the number of the next host read, for bytes drawn per read (log entry 5). -/
  draws         : Nat
  deriving DecidableEq, Repr

/-- Why the machine stops with a fault. -/
inductive Fault where
  /-- Raised by `step` on a host access whose address is outside the core's 32 MiB window (R46): no access of this core.
  Safe: the platform goes on where the model stops (log entry 7). -/
  | outsideWindow
  deriving DecidableEq, Repr

/-- Why an instruction has no meaning. -/
inductive Refusal where
  /-- Raised only by an arm of `exec` that is not modelled yet; no arm is. Safe. -/
  | notModelled (mnemonic : String)
  deriving DecidableEq, Repr

/-- The parameters `State.reset` has: an example of R7's ranges, not a value of the spec (log entry 3). MAX_DIM = 1024
and PMEM_BYTES = 4 MiB are those of vector 2 of 95_test_vectors.md L2.1. -/
def paramsAtReset : Params where
  baseWindow := 0#7
  maxDim := 1024
  pmemKib := 4096
  freqTolBelow := 0
  freqTolAbove := 0
  freqTolDen := 1

/-- The machine with parameters `p` right after a hard reset's release (R43, R145): every PMEM byte unspecified,
nothing in flight, no host access waiting. -/
def State.resetWith (p : Params) : State where
  params := p
  regs := Regs.reset
  pmem := []
  inflight := none
  resetAsserted := false
  turns := []
  resp := none
  epoch := 0
  draws := 0

/-- The machine right after reset. -/
def State.reset : State := State.resetWith paramsAtReset

end Sys2Proof.Machine
end

