-- ==== Sys2Proof/Machine/Numeric.lean ====
section
/-! DEFINITION. The numeric primitives of 00_scope.md R12, on exact integers (R10), and the luma weights. `quant` of a real is in
Spectrum.lean, where the reals are. -/

namespace Sys2Proof.Machine

/-- `asr(x, n)` = ⌊x / 2^n⌋, "rounds toward −∞ also for negative x" (R12): integer division by a positive number rounds
down. -/
def asr (x : Int) (n : Nat) : Int := x / (2 ^ n : Nat)

/-- `sat8(x)` = clamp(x, 0, 255) (R12), as a natural number. -/
def sat8 (x : Int) : Nat := (min 255 (max 0 x)).toNat

/-- `clamp(x, lo, hi)` (R12), on integers, for an index in `0..hi`. -/
def clampIndex (x : Int) (hi : Nat) : Nat := (min (hi : Int) (max 0 x)).toNat

/-- `rne(a / b)` (R12) for naturals, b > 0: the nearest integer, the even one at a tie. -/
def rneDiv (a b : Nat) : Nat :=
  if 2 * (a % b) < b then a / b
  else if b < 2 * (a % b) then a / b + 1
  else if a / b % 2 = 0 then a / b
  else a / b + 1

/-- `median25(S)` (R12): index 12 of the list sorted ascending. -/
def median25 (l : List Nat) : Nat := (l.insertionSort (· ≤ ·)).getD 12 0

/-- Y of R109 and the gray value of R113, "the same as the luma": asr(1868·B + 9617·G + 4899·R + 8192, 14). "Y is always
in 0..255 without saturation", since the weights sum to 16384. -/
def luma (b g r : Nat) : Nat := (asr (1868 * b + 9617 * g + 4899 * r + 8192) 14).toNat

end Sys2Proof.Machine
end

