-- ==== Sys2Proof/Machine/Flags.lean ====
section
/-! DEFINITION. The STATUS bits, "the only flags" (10_state.md R37): the word the host reads (R22), the W1C write
(R24, R26), what each event of R37 writes, the error codes (60_exceptions.md R129) and the interrupt line (R42, R132). -/

namespace Sys2Proof.Machine

/-- The numbers of the error codes (R129). -/
def ErrCode.toBits : ErrCode → BitVec 4
  | .ok                  => 0#4
  | .illegalCmd          => 1#4
  | .badDim              => 2#4
  | .invalidChannelCount => 3#4
  | .paramOutOfRange     => 4#4
  | .bounds              => 5#4
  | .aliased             => 6#4

/-- STATUS.ERR: "not stored. It reads as (ERR_CODE ≠ 0)" (R25). -/
def Regs.err (r : Regs) : Bool := r.errCode != 0#4

/-- The STATUS word (R22): LAST_OP in 23:16, ERR_CODE in 11:8, HAZ 5, OVR 4, ERR 2, DONE 1, BUSY 0; the others read 0. -/
def Regs.statusWord (r : Regs) : Word :=
  0#8 ++ r.lastOp ++ 0#4 ++ r.errCode ++ 0#2 ++ BitVec.ofBool r.haz ++ BitVec.ofBool r.ovr ++ 0#1
    ++ BitVec.ofBool r.err ++ BitVec.ofBool r.done ++ BitVec.ofBool r.busy

/-- A host write of STATUS "affects only the W1C bits" (R22): bit 1 clears DONE (R24), bits 4 and 5 clear OVR and HAZ
(R26). -/
def Regs.writeStatus (v : Word) (r : Regs) : Regs :=
  { r with
    done := r.done && !v.getLsbD 1
    ovr := r.ovr && !v.getLsbD 4
    haz := r.haz && !v.getLsbD 5 }

/-- What every completion at issue writes (R25, R88, R93): DONE, ERR_CODE and LAST_OP. -/
def Regs.report (op : BitVec 8) (code : ErrCode) (r : Regs) : Regs :=
  { r with done := true, errCode := code.toBits, lastOp := op }

/-- What a successful completion writes (R91): BUSY <- 0 besides. -/
def Regs.finish (op : BitVec 8) (r : Regs) : Regs :=
  { Regs.report op .ok r with busy := false }

/-- A command that passes its checks sets BUSY only (R23, R89). -/
def Regs.start (r : Regs) : Regs := { r with busy := true }

/-- A CMD write while BUSY (R26, R84). -/
def Regs.setOvr (r : Regs) : Regs := { r with ovr := true }

/-- A PMEM write while BUSY (R26, R62). -/
def Regs.setHaz (r : Regs) : Regs := { r with haz := true }

/-- The interrupt output `irq` = CTRL.IE ∧ STATUS.DONE (R42, R132): level-sensitive, not stored. -/
def State.irq (s : State) : Bool := s.regs.ie && s.regs.done

end Sys2Proof.Machine
end

