-- ==== Sys2Proof/Machine/Operands.lean ====
section
/-! DEFINITION. Operand assembly and the issue checks: image operands (30_encoding.md R71, 20_memory.md R50, R51), the
parameter operands (R72 to R74), the snapshot (40_command_flow.md R85), and R86's checks with R87, R95 and R97. -/

namespace Sys2Proof.Machine

/-- `size(img)` = H·W·C bytes (R13). -/
def Image.size (img : Image) : Nat := img.h * img.w * img.c

/-- The PMEM offset of `Pix(img, r, c, ch)` (R13, R50). -/
def Image.offset (img : Image) (r c ch : Nat) : Nat := img.base + (r * img.w + c) * img.c + ch

/-- The offset is inside `extent(img)` = [base, base + H·W·C) (R51, R87). -/
def Image.contains (img : Image) (a : Nat) : Bool := img.base ≤ a && a < img.base + img.size

/-- `fits(img)` (R87), computed exactly without wrap. -/
def Image.fits (p : Params) (img : Image) : Bool := img.base + img.size ≤ p.pmemBytes

/-- `overlap(a, b)` (R87). -/
def Image.overlap (a b : Image) : Bool := a.base < b.base + b.size && b.base < a.base + a.size

/-- `Accept(op)` (R95). -/
def accepts : ImageOp → Nat → Bool
  | .cstretch, c => c == 1 || c == 3
  | .gamma,    c => c == 1 || c == 3
  | .histeq,   c => c == 1 || c == 3
  | .butter,   c => c == 3
  | .wiener,   c => c == 3
  | .median,   c => c == 3

/-- `Cout(op, C)` (R95). -/
def cout : ImageOp → Nat → Nat
  | .cstretch, c => c
  | .gamma,    c => c
  | .histeq,   c => c
  | .butter,   _ => 3
  | .wiener,   _ => 3
  | .median,   _ => 3

/-- The parameter operands as they stand in the registers (R72 to R74, R85 `par`). -/
def commandPar (r : Regs) : CommandPar where
  g := r.gammaG.toNat
  cut := r.bwCut.toNat
  ord := r.bwOrd.toNat
  k := r.wnK.toNat
  np := r.wnNp.toNat

/-- `snapshot()` (R85): the image operands of R71 and the parameters, with the opcode it is taken for. -/
def snapshot (op : ImageOp) (r : Regs) : Inflight where
  op := op
  src := ⟨r.srcBase.toNat, r.dimH.toNat, r.dimW.toNat, r.fmtCh.toNat⟩
  dst := ⟨r.dstBase.toNat, r.dimH.toNat, r.dimW.toNat, cout op r.fmtCh.toNat⟩
  par := commandPar r

/-- `ParamBad(op, s)` (R97). "Registers not used by an op are not checked for it." -/
def paramBad (f : Inflight) : Bool :=
  match f.op with
  | .cstretch => false
  | .gamma    => f.par.g == 0
  | .histeq   => false
  | .butter   => f.par.cut == 0 || f.par.ord == 0
  | .wiener   => f.par.k == 0 || min f.src.h f.src.w < f.par.k || f.par.np == 0
  | .median   => false

/-- Checks 3 to 7 of R86, in this order: "The first check that fails gives the code, and no later check is made". Checks
1 and 2 are the decoder's and NOP's own meaning. -/
def checkImage (p : Params) (f : Inflight) : ErrCode :=
  if f.src.h = 0 ∨ f.src.w = 0 ∨ p.maxDim < f.src.h ∨ p.maxDim < f.src.w then .badDim
  else if accepts f.op f.src.c = false then .invalidChannelCount
  else if paramBad f then .paramOutOfRange
  else if f.src.fits p = false ∨ f.dst.fits p = false then .bounds
  else if Image.overlap f.src f.dst then .aliased
  else .ok

/-- The source image of a command as the core reads it (R54, R94): its shape and its bytes in the order of R50. -/
structure SrcImage where
  h  : Nat
  w  : Nat
  c  : Nat
  px : List Nat
  deriving DecidableEq, Repr

/-- `Pix(src, r, c, ch)` (R13), as a number 0..255. -/
def SrcImage.pix (i : SrcImage) (r c ch : Nat) : Nat := i.px.getD ((r * i.w + c) * i.c + ch) 0

/-- The values of `plane(img, ch)` (R94), row by row. -/
def SrcImage.planeValues (i : SrcImage) (ch : Nat) : List Nat :=
  (List.range (i.h * i.w)).map fun k => i.px.getD (k * i.c + ch) 0

/-- An H × W × C array in the order of R50: element `(r·W + c)·C + ch` is `f r c ch` (R96). -/
def layout (h w c : Nat) (f : Nat → Nat → Nat → Nat) : List Nat :=
  (List.range (h * w * c)).map fun k => f (k / (w * c)) (k / c % w) (k % c)

end Sys2Proof.Machine
end

