-- ==== Sys2Proof/Machine/Ops.lean ====
section
/-! DEFINITION. The named operations over the pixel memory, the registers and the whole state: reads and writes of bytes
and of data (20_memory.md R47), register reads and writes (10_state.md R17 to R36), the error report that stands for
trap entry (40_command_flow.md R88, 60_exceptions.md R131, R135), and the resets (70_reset_and_hazards.md R145 to
R147). -/

namespace Sys2Proof.Machine

/-! ### Pixel memory -/

/-- What an offset that is not listed holds: nothing the spec specifies (R44 `none`, R145; log entry 15). -/
def Memory.unlisted : Option Byte := none

/-- The canonical form: offsets strictly rising. No entry can equal `Memory.unlisted`, which is no byte. -/
abbrev Memory.wf (m : Memory) : Prop := m.Pairwise fun x y => x.1 < y.1

/-- The byte at offset `a`, or nothing where it is unspecified (R44 `pmem`). -/
def Memory.read : Memory → Nat → Option Byte
  | [], _ => Memory.unlisted
  | (k, v) :: m, a => if k = a then some v else Memory.read m a

/-- Stores one byte. -/
def Memory.write (a : Nat) (b : Byte) : Memory → Memory
  | [] => [(a, b)]
  | (k, v) :: m =>
    if a < k then (a, b) :: (k, v) :: m
    else if a = k then (a, b) :: m
    else (k, v) :: Memory.write a b m

/-- Stores bytes at rising offsets from `a` (R47 `MemWrite`, R91). -/
def Memory.writeBytes (a : Nat) : List Byte → Memory → Memory
  | [], m => m
  | b :: bs, m => Memory.writeBytes (a + 1) bs (Memory.write a b m)

/-- Makes the bytes `[a, a + n)` unspecified (R147: "PMEM[b] <- unspecified"). -/
def Memory.forget (a n : Nat) (m : Memory) : Memory := m.filter fun x => !(a ≤ x.1 && x.1 < a + n)

/-- The bytes `[a, a + n)`, or nothing if one of them is unspecified. -/
def Memory.readBytes (m : Memory) (a : Nat) : Nat → Option (List Byte)
  | 0 => some []
  | n + 1 =>
    match Memory.read m a, Memory.readBytes m (a + 1) n with
    | some b, some bs => some (b :: bs)
    | _, _ => none

/-! ### Bus data (R47, R66: little-endian) -/

/-- A datum made from the bytes `f 0`, `f 1`, ... at rising offsets. -/
def datumOfBytes (f : Nat → Byte) : Width → Datum
  | .w8  => .b8 (f 0)
  | .w16 => .b16 (f 1 ++ f 0)
  | .w32 => .b32 (f 3 ++ f 2 ++ f 1 ++ f 0)

/-- The bytes of a datum, the byte of the lowest offset first. -/
def datumBytes : Datum → List Byte
  | .b8 v  => [v]
  | .b16 v => [v.extractLsb' 0 8, v.extractLsb' 8 8]
  | .b32 v => [v.extractLsb' 0 8, v.extractLsb' 8 8, v.extractLsb' 16 8, v.extractLsb' 24 8]

/-! ### Small state updates -/

/-- The bus answers the access. -/
def State.respond (x : Response) (s : State) : State := { s with resp := some x }

/-- The turn is over and nothing has happened in it: `rest` is what is to come. -/
def State.pass (rest : List Turn) (s : State) : State := { s with turns := rest }

/-- The turn is over and something other than a read has happened in it: what unspecified bytes read as from here on is
new (R52; log entry 5). -/
def State.advance (rest : List Turn) (s : State) : State := { s with turns := rest, epoch := s.epoch + 1 }

/-- The turn is over and was a host read: "No read has a side effect" (R52), so unspecified bytes keep what they read as,
and only the bytes that are drawn per read are new (U2, U5; log entry 5). -/
def State.advanceRead (rest : List Turn) (s : State) : State := { s with turns := rest, draws := s.draws + 1 }

/-! ### The completion reports of the sequencer -/

/-- errorComplete (R88), which is also `raise` (R11, R131) and all there is of trap entry (R135): DONE, ERR_CODE and
LAST_OP are written, "Nothing else changes". The host ends the handling by clearing DONE (R137), which is
`Regs.writeStatus`: there is no return operation. -/
def errorComplete (opfield : BitVec 8) (code : ErrCode) (s : State) : State :=
  { s with regs := s.regs.report opfield code }

/-- nopComplete (R93). -/
def nopComplete (s : State) : State := { s with regs := s.regs.report 0x00#8 .ok }

/-- Start (R83's last lines, R89): the in-flight record is taken and BUSY is set. -/
def startCommand (f : Inflight) (s : State) : State :=
  { s with inflight := some f, regs := s.regs.start }

/-- A CMD write while BUSY "has only this effect: R[STATUS].OVR <- 1" (R84). -/
def commandLost (s : State) : State := { s with regs := s.regs.setOvr }

/-! ### Reset -/

/-- Abort (R147): the destination of a command in flight becomes unspecified and the record is dropped. -/
def abort (s : State) : State :=
  match s.inflight with
  | none => s
  | some f => { s with pmem := Memory.forget f.dst.base f.dst.size s.pmem, inflight := none }

/-- Soft reset (R146): every register field at its reset value, the command in flight aborted, PMEM kept otherwise. -/
def softReset (s : State) : State := { abort s with regs := Regs.reset }

/-- Hard reset, on the release of the input (R145): registers at their reset values, nothing in flight, every PMEM byte
unspecified. The abort of R147 leaves nothing more, since every byte is unspecified. -/
def hardReset (s : State) : State :=
  { s with regs := Regs.reset, pmem := [], inflight := none, resetAsserted := false, epoch := s.epoch + 1 }

/-! ### Registers -/

/-- The register at a byte offset of the register window (R17); none at an unlisted one (R18). -/
def regAt (off : Nat) : Option RegName :=
  match off with
  | 0x000 => some .id
  | 0x004 => some .caps
  | 0x008 => some .ctrl
  | 0x00C => some .status
  | 0x010 => some .cmd
  | 0x014 => some .srcBase
  | 0x018 => some .dstBase
  | 0x01C => some .dim
  | 0x020 => some .fmt
  | 0x024 => some .gamma
  | 0x028 => some .bwCutoff
  | 0x02C => some .bwOrder
  | 0x030 => some .wnKsize
  | 0x034 => some .wnNoise
  | _     => none

/-- The byte offsets of R17. -/
def regOffset : RegName → Nat
  | .id       => 0x000
  | .caps     => 0x004
  | .ctrl     => 0x008
  | .status   => 0x00C
  | .cmd      => 0x010
  | .srcBase  => 0x014
  | .dstBase  => 0x018
  | .dim      => 0x01C
  | .fmt      => 0x020
  | .gamma    => 0x024
  | .bwCutoff => 0x028
  | .bwOrder  => 0x02C
  | .wnKsize  => 0x030
  | .wnNoise  => 0x034

/-- The identity of the command set, ASCII "LCR1" (R3, R19). -/
def idWord : Word := 0x4C435231#32

/-- CAPS (R20): PMEM_KIB in 31:16, MAX_DIM in 15:0. -/
def capsWord (p : Params) : Word := BitVec.ofNat 16 p.pmemKib ++ BitVec.ofNat 16 p.maxDim

/-- What a 32-bit read of a register returns (R18 to R36): stored bits only, reserved bits 0. -/
def regRead (s : State) : RegName → Word
  | .id       => idWord
  | .caps     => capsWord s.params
  | .ctrl     => (BitVec.ofBool s.regs.ie).zeroExtend 32
  | .status   => s.regs.statusWord
  | .cmd      => 0#32
  | .srcBase  => s.regs.srcBase.zeroExtend 32
  | .dstBase  => s.regs.dstBase.zeroExtend 32
  | .dim      => s.regs.dimH ++ s.regs.dimW
  | .fmt      => s.regs.fmtCh.zeroExtend 32
  | .gamma    => s.regs.gammaG.zeroExtend 32
  | .bwCutoff => s.regs.bwCut.zeroExtend 32
  | .bwOrder  => s.regs.bwOrd.zeroExtend 32
  | .wnKsize  => s.regs.wnK.zeroExtend 32
  | .wnNoise  => s.regs.wnNp

/-- CTRL (R21): SRST = 1 "performs the soft reset", after which the IE bit of the same write is discarded; with
SRST = 0 the write "only stores IE" (R146). -/
def writeCtrl (v : Word) (s : State) : State :=
  if v.getLsbD 1 then softReset s else { s with regs := { s.regs with ie := v.getLsbD 0 } }

/-- What a 32-bit write of a register other than CMD does (R18 to R36). CMD "holds no state" (R27): what a write to it
does is `issue`, and nothing is stored here. ID and CAPS ignore writes (R19, R20). -/
def regWrite (v : Word) (s : State) : RegName → State
  | .id       => s
  | .caps     => s
  | .ctrl     => writeCtrl v s
  | .status   => { s with regs := s.regs.writeStatus v }
  | .cmd      => s
  | .srcBase  => { s with regs := { s.regs with srcBase := v.extractLsb' 0 24 } }
  | .dstBase  => { s with regs := { s.regs with dstBase := v.extractLsb' 0 24 } }
  | .dim      => { s with regs := { s.regs with dimH := v.extractLsb' 16 16, dimW := v.extractLsb' 0 16 } }
  | .fmt      => { s with regs := { s.regs with fmtCh := v.extractLsb' 0 3 } }
  | .gamma    => { s with regs := { s.regs with gammaG := v.extractLsb' 0 16 } }
  | .bwCutoff => { s with regs := { s.regs with bwCut := v.extractLsb' 0 16 } }
  | .bwOrder  => { s with regs := { s.regs with bwOrd := v.extractLsb' 0 8 } }
  | .wnKsize  => { s with regs := { s.regs with wnK := v.extractLsb' 0 8 } }
  | .wnNoise  => { s with regs := { s.regs with wnNp := v } }

/-! ### The host's reads and writes of pixel memory -/

/-- The byte belongs to the destination of the command in flight. -/
def inDestination (s : State) (a : Nat) : Bool :=
  match s.inflight with
  | none => false
  | some f => f.dst.contains a

/-- The byte a host read sees at PMEM offset `a`: any value, drawn per read, in the destination of a command in flight (R62,
U2); any value, the same until something else happens, where the byte is unspecified (R44, R52); the stored byte
otherwise. -/
def hostByte (s : State) (a : Nat) : Byte :=
  if inDestination s a then Config.freeRead s.draws a
  else match Memory.read s.pmem a with
    | some b => b
    | none => Config.freeByte s.epoch a

/-- A legal host read of pixel memory (R47, R62). -/
def pmemRead (a : Nat) (w : Width) (s : State) : Datum := datumOfBytes (fun k => hostByte s (a + k)) w

/-- A legal host write of pixel memory: stored while BUSY = 0, dropped with HAZ <- 1 while BUSY = 1 (R47, R62). -/
def pmemWrite (a : Nat) (d : Datum) (s : State) : State :=
  if s.regs.busy then { s with regs := s.regs.setHaz }
  else { s with pmem := Memory.writeBytes a (datumBytes d) s.pmem }

end Sys2Proof.Machine
end

