-- ==== Sys2Proof/Machine/Cyclotomic.lean ====
section
/-! DEFINITION. Exact complex arithmetic for the frequency-domain units (R10: "exact reals and complex numbers"; R115:
"in exact complex arithmetic"; log entry 10).

Every complex number the rules R115 to R122 name is a quotient of two integer combinations of the powers of one root of
unity ζ = e^{2πi/n}, n = lcm(H, W). `Cyc` is such a combination, Σ_j a_j ζ^j, as the list of its n integer coefficients;
`Frac` is a quotient of two. Sums, products and conjugates are exact and need no real number. Only the last stage, which
asks whether a magnitude reaches a threshold (R122), evaluates ζ: `Cyc.nonneg` decides it exactly, by integer arithmetic.
-/

namespace Sys2Proof.Machine

/-- The number Σ_{j<n} a_j ζ^j, ζ = e^{2πi/n}, as its coefficients a_0, a_1, ... -/
abbrev Cyc := List Int

/-- The coefficient of ζ^j. -/
def Cyc.coef (a : Cyc) (j : Nat) : Int := a.getD j 0

/-- The list of the n coefficients `f 0`, ..., `f (n-1)`. -/
def Cyc.tabulate (n : Nat) (f : Nat → Int) : Cyc := (List.range n).map f

/-- An integer as such a number. -/
def Cyc.const (n : Nat) (k : Int) : Cyc := Cyc.tabulate n fun j => if j = 0 then k else 0

/-- The sum. -/
def Cyc.add (n : Nat) (a b : Cyc) : Cyc := Cyc.tabulate n fun j => Cyc.coef a j + Cyc.coef b j

/-- The difference. -/
def Cyc.sub (n : Nat) (a b : Cyc) : Cyc := Cyc.tabulate n fun j => Cyc.coef a j - Cyc.coef b j

/-- The product by an integer. -/
def Cyc.scale (n : Nat) (k : Int) (a : Cyc) : Cyc := Cyc.tabulate n fun j => k * Cyc.coef a j

/-- The product by ζ^e. -/
def Cyc.rotate (n e : Nat) (a : Cyc) : Cyc := Cyc.tabulate n fun j => Cyc.coef a ((j + (n - e % n)) % n)

/-- The product: ζ^i · ζ^j = ζ^((i + j) mod n). -/
def Cyc.mul (n : Nat) (a b : Cyc) : Cyc :=
  Cyc.tabulate n fun j => ((List.range n).map fun i => Cyc.coef a i * Cyc.coef b ((j + (n - i)) % n)).sum

/-- The complex conjugate (R12): ζ^j becomes ζ^(-j). -/
def Cyc.conj (n : Nat) (a : Cyc) : Cyc := Cyc.tabulate n fun j => Cyc.coef a ((n - j) % n)

/-! ### Is the number 0? -/

/-- The primes that divide n. -/
def primeDivisors (n : Nat) : List Nat :=
  (List.range (n + 1)).filter fun p =>
    2 ≤ p && n % p == 0 && (List.range p).all fun d => d < 2 || p % d != 0

/-- Whether Σ_j a_j ζ^j = 0. The product of a(z) by Π_{p | n} (1 - z^(n/p)) vanishes modulo z^n - 1 exactly when a
vanishes at every primitive n-th root of unity: the factors are 0 at every other n-th root, and not 0 at a primitive one;
and an a with integer coefficients vanishes at all primitive roots as soon as it does at one. -/
def Cyc.isZero (n : Nat) (a : Cyc) : Bool :=
  ((primeDivisors n).foldl (fun b p => Cyc.sub n b (Cyc.rotate n (n / p) b)) a).all (· == 0)

/-! ### The sign of a real number of this kind -/

/-- Whether a/2^p > cos(π/n), for 0 ≤ a < 2^p and n ≥ 2. With a/2^p = cos θ the k-th value `v` is
2^(p·k)·sin((k+1)θ)/sin θ, and all of the first n are positive exactly when n·θ < π. -/
def aboveCosPi (p a : Nat) : Nat → Int → Int → Bool
  | 0, _, _ => true
  | k + 1, u, v => 0 < v && aboveCosPi p a k v (2 * a * v - 2 ^ (2 * p) * u)

/-- ⌊2^p · cos(π/n)⌋ for n ≥ 2, bit by bit from bit `b - 1` down. -/
def cosPiFloor (n p : Nat) : Nat → Nat → Nat
  | 0, a => a
  | b + 1, a => cosPiFloor n p b (if aboveCosPi p (a + 2 ^ b) n 0 1 then a else a + 2 ^ b)

/-- Σ_j a_j · 2^(2·p·m) · T_{2j}(c/2^p), where m is the number of coefficients and T is the Chebyshev polynomial: with
c/2^p = cos φ this is 2^(2·p·m) · Σ_j a_j cos(2jφ). `t` and `u` are T at the current degree and the next, scaled by 2^p
for each degree. -/
def chebyshevSum (p : Nat) (c : Int) : List Int → Int → Int → Int
  | [], _, _ => 0
  | x :: xs, t, u =>
    let t2 := 2 * c * u - 2 ^ (2 * p) * t
    x * t * 2 ^ (2 * p * (xs.length + 1)) + chebyshevSum p c xs t2 (2 * c * t2 - 2 ^ (2 * p) * u)

/-- The sum of the absolute values of the coefficients. -/
def Cyc.weight (a : Cyc) : Nat := (a.map Int.natAbs).sum

/-- The sign of the real part of Σ_j a_j ζ^j from p bits of cos(π/n): `some true` if it is surely positive, `some false`
if surely negative. The value used differs from the exact one by at most 4·n²·weight/2^p, since
|cos 2jφ - cos 2jψ| ≤ (2j)²·|cos φ - cos ψ|. -/
def Cyc.signAt (n p : Nat) (a : Cyc) : Option Bool :=
  let c := cosPiFloor n p p 0
  let v := chebyshevSum p c a 1 c
  let e : Int := 4 * n ^ 2 * Cyc.weight a * 2 ^ (2 * p * n) / 2 ^ p + 1
  if e < v then some true else if v < -e then some false else none

/-- The sign from p bits, then from 2p, and so on. -/
def Cyc.positiveFrom (n : Nat) (a : Cyc) : Nat → Nat → Bool
  | 0, _ => false
  | fuel + 1, p =>
    match Cyc.signAt n p a with
    | some b => b
    | none => Cyc.positiveFrom n a fuel (2 * p)

/-- A number of bits that always settles the sign of a number that is not 0: the product of the conjugates of an
algebraic integer that is not 0 is a nonzero integer, and each conjugate is at most the weight, so the number is at least
weight^(1-n) in size. -/
def Cyc.enoughBits (n : Nat) (a : Cyc) : Nat := n * (Nat.log2 (Cyc.weight a) + 1) + 2 * (Nat.log2 n + 1) + 8

/-- Whether the real number Σ_j a_j ζ^j is ≥ 0. -/
def Cyc.nonneg (n : Nat) (a : Cyc) : Bool :=
  Cyc.isZero n a || Cyc.positiveFrom n a (Nat.log2 (Cyc.enoughBits n a) + 2) 32

/-! ### Quotients -/

/-- The number num/den. Every `den` the rules make is not 0: see `Frac` users in Spectrum.lean. -/
structure Frac where
  num : Cyc
  den : Cyc
  deriving DecidableEq, Repr

/-- A rational number a/b. -/
def Frac.ratio (n : Nat) (a b : Int) : Frac := ⟨Cyc.const n a, Cyc.const n b⟩

/-- A `Cyc` as a quotient. -/
def Frac.ofCyc (n : Nat) (a : Cyc) : Frac := ⟨a, Cyc.const n 1⟩

/-- The sum; equal denominators are kept as they are. -/
def Frac.add (n : Nat) (x y : Frac) : Frac :=
  if x.den = y.den then ⟨Cyc.add n x.num y.num, x.den⟩
  else ⟨Cyc.add n (Cyc.mul n x.num y.den) (Cyc.mul n y.num x.den), Cyc.mul n x.den y.den⟩

/-- The product. -/
def Frac.mul (n : Nat) (x y : Frac) : Frac := ⟨Cyc.mul n x.num y.num, Cyc.mul n x.den y.den⟩

/-- The quotient, for y ≠ 0. -/
def Frac.div (n : Nat) (x y : Frac) : Frac := ⟨Cyc.mul n x.num y.den, Cyc.mul n x.den y.num⟩

/-- The complex conjugate (R12). -/
def Frac.conj (n : Nat) (x : Frac) : Frac := ⟨Cyc.conj n x.num, Cyc.conj n x.den⟩

/-- The product by ζ^e. -/
def Frac.rotate (n e : Nat) (x : Frac) : Frac := ⟨Cyc.rotate n e x.num, x.den⟩

/-- The sum of a list. -/
def Frac.sum (n : Nat) (l : List Frac) : Frac := l.foldl (Frac.add n) (Frac.ratio n 0 1)

/-- Whether the magnitude |x| (R12: sqrt(re² + im²)) reaches the rational a/b, b > 0: a ≤ 0, or |x|² ≥ (a/b)². -/
def Frac.reaches (n : Nat) (x : Frac) (a : Int) (b : Nat) : Bool :=
  a ≤ 0 ||
    Cyc.nonneg n (Cyc.sub n (Cyc.scale n ((b : Int) ^ 2) (Cyc.mul n x.num (Cyc.conj n x.num)))
      (Cyc.scale n (a ^ 2) (Cyc.mul n x.den (Cyc.conj n x.den))))

end Sys2Proof.Machine
end

