-- ==== Sys2Proof/Machine/Spectrum.lean ====
section
/-! DEFINITION. The frequency-domain units (42_restoration_filter.md R113 to R123): fft_2d_engine, frequency_multiplier,
wiener_mask_generator and ifft_2d_engine. Index arithmetic and formulas are those of the rules, over the exact complex
numbers of Cyclotomic.lean with n = lcm(H, W), so that e^{2πi·u·r/H} = ζ^(u·r·(n/H)). -/

namespace Sys2Proof.Machine

/-- toGray(B, G, R) (R113). -/
def toGray (b g r : Nat) : Nat := luma b g r

/-- The gray plane of a source, as rows (R113). -/
def grayPlane (i : SrcImage) : List (List Nat) :=
  (List.range i.h).map fun r => (List.range i.w).map fun c => toGray (i.pix r c 0) (i.pix r c 1) (i.pix r c 2)

/-- Entry (r, c) of a plane given as rows. -/
def planeAt (g : List (List Nat)) (r c : Nat) : Nat := (g.getD r []).getD c 0

/-- The order of the root of unity: n = lcm(H, W). -/
def rootOrder (h w : Nat) : Nat := Nat.lcm h w

/-- The exponent of ζ in e^{2πi·(u·r/H + v·c/W)}. -/
def twiddle (h w u v r c : Nat) : Nat := u * r * (rootOrder h w / h) + v * c * (rootOrder h w / w)

/-- DFT2(g)[u][v] (R115): Σ_r Σ_c g[r][c]·e^{−2πi·(u·r/H + v·c/W)}, unnormalized. The coefficient of ζ^j collects the
pixels whose exponent is −j. -/
def dft2 (h w : Nat) (g : List (List Nat)) (u v : Nat) : Cyc :=
  Cyc.tabulate (rootOrder h w) fun j =>
    ((List.range h).map fun r =>
      ((List.range w).map fun c =>
        if (twiddle h w u v r c + j) % rootOrder h w = 0 then (planeAt g r c : Int) else 0).sum).sum

/-- IDFT2(P)[r][c] (R116): (1/(H·W))·Σ_u Σ_v P[u][v]·e^{+2πi·(u·r/H + v·c/W)}. -/
def idft2 (h w : Nat) (spec : List (List Frac)) (r c : Nat) : Frac :=
  let n := rootOrder h w
  let terms := (List.range h).flatMap fun u =>
    (List.range w).map fun v => Frac.rotate n (twiddle h w u v r c) ((spec.getD u []).getD v (Frac.ratio n 0 1))
  Frac.mul n (Frac.ratio n 1 (h * w : Nat)) (Frac.sum n terms)

/-- The centring shift (R117): cu(u) = (u + H // 2) mod H. -/
def centred (n u : Nat) : Nat := (u + n / 2) % n

/-- D2(p, q) (R118), the squared distance to the centre. -/
def dist2 (h w p q : Nat) : Nat :=
  ((p : Int) - (h / 2 : Nat)).natAbs ^ 2 + ((q : Int) - (w / 2 : Nat)).natAbs ^ 2

/-- BW(p, q) (R118): CUT^(2·ORD) / (CUT^(2·ORD) + D2^ORD), "exact rational in (0, 1]". -/
def butterMask (h w cut ord p q : Nat) : Frac :=
  Frac.ratio (rootOrder h w) (cut ^ (2 * ord) : Nat) (cut ^ (2 * ord) + dist2 h w p q ^ ord : Nat)

/-- The masked spectrum of BUTTER (R119): F[u][v]·BW(cu(u), cv(v)). -/
def butterSpectrum (h w : Nat) (g : List (List Nat)) (cut ord : Nat) : List (List Frac) :=
  let n := rootOrder h w
  (List.range h).map fun u => (List.range w).map fun v =>
    Frac.mul n (Frac.ofCyc n (dft2 h w g u v)) (butterMask h w cut ord (centred h u) (centred w v))

/-- The box kernel of R120 without its factor 1/k²: 1 in the top-left k×k corner, 0 elsewhere. -/
def boxCorner (h w k : Nat) : List (List Nat) :=
  (List.range h).map fun r => (List.range w).map fun c => if r < k ∧ c < k then 1 else 0

/-- Hb[u][v] = DFT2(kern)[u][v] with kern = 1/k² on the corner (R120). -/
def boxSpectrum (h w k u v : Nat) : Frac := ⟨dft2 h w (boxCorner h w k) u v, Cyc.const (rootOrder h w) (k ^ 2 : Nat)⟩

/-- Wf[u][v] = conj(Hb) / (|Hb|² + np), np = NP/2^24 (R121): "The denominator is ≥ np > 0". -/
def wienerFactor (h w k np u v : Nat) : Frac :=
  let n := rootOrder h w
  let hb := boxSpectrum h w k u v
  Frac.div n (Frac.conj n hb)
    (Frac.add n (Frac.mul n hb (Frac.conj n hb)) (Frac.ratio n np (2 ^ 24 : Nat)))

/-- The product spectrum of WIENER (R119): Wf[u][v]·F[u][v], at unshifted indices (R125). -/
def wienerSpectrum (h w : Nat) (g : List (List Nat)) (k np : Nat) : List (List Frac) :=
  let n := rootOrder h w
  (List.range h).map fun u => (List.range w).map fun v =>
    Frac.mul n (wienerFactor h w k np u v) (Frac.ofCyc n (dft2 h w g u v))

/-- The greatest integer in 0..255 that `reach` holds of, for a `reach` that holds of 0 and of all below any it holds of:
found bit by bit, from bit `b - 1` down. -/
def greatestReached (reach : Nat → Bool) : Nat → Nat → Nat
  | 0, acc => acc
  | b + 1, acc => greatestReached reach b (if reach (acc + 2 ^ b) then acc + 2 ^ b else acc)

/-- quant(|y| + q/d) for a complex y and a rational q/d, d > 0 (R12, R122: "⌊clamp(x, 0, 255)⌋"): the greatest integer in
0..255 that |y| + q/d reaches, which is 0 where it reaches none. |y| + q/d ≥ m is |y| ≥ (m·d − q)/d. -/
def quantMagnitude (n : Nat) (y : Frac) (q : Int) (d : Nat) : Nat :=
  greatestReached (fun m => Frac.reaches n y ((m : Int) * d - q) d) 8 0

/-- One output pixel of the datapath (R123): the implementation's own byte, clamped into
[quant(x − FREQ_TOL), quant(x + FREQ_TOL)], x = |y| (log entry 9). The low end takes FREQ_TOL from below and the high end
from above, where quant is continuous, so that a tight enclosure gives FREQ_TOL's own range (log entry 4). With
FREQ_TOL = 0 the pixel is exactly quant(x). -/
def freqPixel (p : Params) (op : BitVec 8) (g : List (List Nat)) (par : CommandPar) (n : Nat) (y : Frac)
    (r c : Nat) : Nat :=
  let low := quantMagnitude n y (-(p.freqTolBelow : Int)) p.freqTolDen
  let high := quantMagnitude n y p.freqTolAbove p.freqTolDen
  max low (min high (Config.freqByte op g par r c).toNat)

/-- The plane freqOut(op, g, par) of R123 for a product spectrum. -/
def freqOut (p : Params) (op : BitVec 8) (h w : Nat) (g : List (List Nat)) (par : CommandPar)
    (spec : List (List Frac)) : List (List Nat) :=
  (List.range h).map fun r => (List.range w).map fun c =>
    freqPixel p op g par (rootOrder h w) (idft2 h w spec r c) r c

end Sys2Proof.Machine
end

