-- ==== Sys2Proof/Machine/Sequencer.lean ====
section
/-! DEFINITION. The command sequencer (40_command_flow.md): what the issue of a CMD write does once the word is decoded
(R83), and NOP (R93). -/

namespace Sys2Proof.Machine

/-- Issue of an image command (R83): lost while BUSY (R84); otherwise the snapshot (R85) is checked (R86) and the command
either completes with the first failing check's code (R88) or starts (R89). -/
def issueImage (op : ImageOp) (s : State) : Host.Outcome State Fault Refusal :=
  if s.regs.busy then .next (commandLost s)
  else
    match checkImage s.params (snapshot op s.regs) with
    | .ok => .next (startCommand (snapshot op s.regs) s)
    | code => .next (errorComplete op.opcode code s)

/-- NOP (R93): "Only check 1 of rule R86", which the decoder has made; lost while BUSY like any CMD write (R84). -/
def execNop (s : State) : Host.Outcome State Fault Refusal :=
  if s.regs.busy then .next (commandLost s) else .next (nopComplete s)

end Sys2Proof.Machine
end

