-- ==== Sys2Proof/Machine/Contrast.lean ====
section
/-! DEFINITION. The contrast enhancer (41_contrast_enhancer.md): CSTRETCH and GAMMA (LUT_contrast_remapper) and HISTEQ
(histogram_equalizer): each command's `Result` of R91, and its issue. -/

namespace Sys2Proof.Machine

/-! ### CSTRETCH (R101) -/

/-- The minimum of a plane's values; 255 for none. -/
def planeMin (l : List Nat) : Nat := l.foldr min 255

/-- The maximum of a plane's values; 0 for none. -/
def planeMax (l : List Nat) : Nat := l.foldr max 0

/-- The remap of one pixel (R101): a degenerate channel is unchanged, otherwise ((p − mn)·255) // (mx − mn). -/
def stretch (mn mx v : Nat) : Nat := if mx = mn then v else ((v - mn) * 255) / (mx - mn)

/-- Result(CSTRETCH, src, par) (R101): each channel with its own minimum and maximum. -/
def resultCstretch (i : SrcImage) : List Nat :=
  let mins := (List.range i.c).map fun ch => planeMin (i.planeValues ch)
  let maxs := (List.range i.c).map fun ch => planeMax (i.planeValues ch)
  layout i.h i.w i.c fun r c ch => stretch (mins.getD ch 0) (maxs.getD ch 0) (i.pix r c ch)

/-- CSTRETCH, issued (R83, R101). -/
def execCstretch (s : State) : Host.Outcome State Fault Refusal := issueImage .cstretch s

/-! ### GAMMA (R103 to R105) -/

/-- gammaLUT(G)[i] by the integer comparison of R105, which equals R104's rne(255·(i/255)^(256/G)):
#{ k ∈ 0..254 : (2k+1)^G · 255^256 < i^256 · 510^G }. -/
def gammaLut (g i : Nat) : Nat :=
  (List.range 255).countP fun k => (2 * k + 1) ^ g * 255 ^ 256 < i ^ 256 * 510 ^ g

/-- Result(GAMMA, src, par) (R103): the LUT, "built once per command", applied to every channel. -/
def resultGamma (i : SrcImage) (g : Nat) : List Nat :=
  let lut := (List.range 256).map (gammaLut g)
  layout i.h i.w i.c fun r c ch => lut.getD (i.pix r c ch) 0

/-- GAMMA, issued (R83, R103). -/
def execGamma (s : State) : Host.Outcome State Fault Refusal := issueImage .gamma s

/-! ### HISTEQ (R107 to R110) -/

/-- h[v] (R107): the 256-bin histogram. -/
def hist (ys : List Nat) (v : Nat) : Nat := ys.count v

/-- cdf[v] = Σ_{u ≤ v} h[u] (R107). -/
def cdf (ys : List Nat) (v : Nat) : Nat := ((List.range (v + 1)).map (hist ys)).sum

/-- heqLUT(Y)[v] (R107), for the values ys of the plane: v0 is the least value that occurs, cmin = cdf[v0]. -/
def heqLut (ys : List Nat) (v : Nat) : Nat :=
  let v0 := planeMin ys
  let cmin := cdf ys v0
  let n := ys.length
  if cmin = n then v
  else if v < v0 then 0
  else rneDiv ((cdf ys v - cmin) * 255) (n - cmin)

/-- Cr of R109: sat8(asr((R − Y)·11682 + 128·16384 + 8192, 14)). -/
def chromaR (b g r : Nat) : Nat := sat8 (asr (((r : Int) - luma b g r) * 11682 + 128 * 16384 + 8192) 14)

/-- Cb of R109: sat8(asr((B − Y)·9241 + 128·16384 + 8192, 14)). -/
def chromaB (b g r : Nat) : Nat := sat8 (asr (((b : Int) - luma b g r) * 9241 + 128 * 16384 + 8192) 14)

/-- B of R110: sat8(Y + asr((Cb − 128)·29049 + 8192, 14)). -/
def blueOf (y cb : Nat) : Nat := sat8 (y + asr (((cb : Int) - 128) * 29049 + 8192) 14)

/-- G of R110: sat8(Y + asr((Cr − 128)·(−11698) + (Cb − 128)·(−5636) + 8192, 14)). -/
def greenOf (y cr cb : Nat) : Nat :=
  sat8 (y + asr (((cr : Int) - 128) * (-11698) + ((cb : Int) - 128) * (-5636) + 8192) 14)

/-- R of R110: sat8(Y + asr((Cr − 128)·22987 + 8192, 14)). -/
def redOf (y cr : Nat) : Nat := sat8 (y + asr (((cr : Int) - 128) * 22987 + 8192) 14)

/-- Channel `ch` of fromYCrCb(Y, Cr, Cb) in the order (B, G, R) (R110). -/
def fromYCrCb (y cr cb ch : Nat) : Nat :=
  if ch = 0 then blueOf y cb else if ch = 1 then greenOf y cr cb else redOf y cr

/-- The values of the luma plane Yp (R108), row by row. -/
def lumaValues (i : SrcImage) : List Nat :=
  (List.range (i.h * i.w)).map fun k => luma (i.px.getD (k * i.c) 0) (i.px.getD (k * i.c + 1) 0) (i.px.getD (k * i.c + 2) 0)

/-- One output pixel of HISTEQ on a colour image (R108): the luma through the LUT, "leave chroma channels untouched". -/
def equalizedColour (lut : Nat → Nat) (b g r ch : Nat) : Nat :=
  fromYCrCb (lut (luma b g r)) (chromaR b g r) (chromaB b g r) ch

/-- Result(HISTEQ, src, par) (R108): C = 1 directly, C = 3 on the luma plane only. -/
def resultHisteq (i : SrcImage) : List Nat :=
  if i.c = 1 then
    let lut := (List.range 256).map (heqLut (i.planeValues 0))
    layout i.h i.w i.c fun r c ch => lut.getD (i.pix r c ch) 0
  else
    let lut := (List.range 256).map (heqLut (lumaValues i))
    layout i.h i.w i.c fun r c ch =>
      equalizedColour (fun v => lut.getD v 0) (i.pix r c 0) (i.pix r c 1) (i.pix r c 2) ch

/-- HISTEQ, issued (R83, R108). -/
def execHisteq (s : State) : Host.Outcome State Fault Refusal := issueImage .histeq s

end Sys2Proof.Machine
end

