-- ==== Sys2Proof/Machine/Restoration.lean ====
section
/-! DEFINITION. The restoration filter (42_restoration_filter.md): BUTTER and WIENER over Spectrum.lean's units, and
MEDIAN (median_filter_spatial): each command's `Result` of R91, and its issue. -/

namespace Sys2Proof.Machine

/-- Expansion to three channels (R114). -/
def expand3 (h w : Nat) (q : List (List Nat)) : List Nat := layout h w 3 fun r c _ => planeAt q r c

/-- Result(BUTTER, src, par) (R124): gray, DFT, mask, inverse DFT and quant within FREQ_TOL, three channels. -/
def resultButter (p : Params) (i : SrcImage) (par : CommandPar) : List Nat :=
  let g := grayPlane i
  expand3 i.h i.w
    (freqOut p ImageOp.butter.opcode i.h i.w g par (butterSpectrum i.h i.w g par.cut par.ord))

/-- BUTTER, issued (R83, R124). -/
def execButter (s : State) : Host.Outcome State Fault Refusal := issueImage .butter s

/-- Result(WIENER, src, par) (R125): gray, DFT, Wiener factor, inverse DFT and quant within FREQ_TOL, three channels. -/
def resultWiener (p : Params) (i : SrcImage) (par : CommandPar) : List Nat :=
  let g := grayPlane i
  expand3 i.h i.w
    (freqOut p ImageOp.wiener.opcode i.h i.w g par (wienerSpectrum i.h i.w g par.k par.np))

/-- WIENER, issued (R83, R125). -/
def execWiener (s : State) : Host.Outcome State Fault Refusal := issueImage .wiener s

/-- The multiset S of R126: the 25 values of the 5×5 window, out-of-range coordinates clamped to the nearest edge
("replicate border"). `d`, `e` in 0..4 stand for dr, dc in −2..2. -/
def window25 (i : SrcImage) (r c ch : Nat) : List Nat :=
  (List.range 5).flatMap fun d => (List.range 5).map fun e =>
    i.pix (clampIndex ((r : Int) + d - 2) (i.h - 1)) (clampIndex ((c : Int) + e - 2) (i.w - 1)) ch

/-- Result(MEDIAN, src, par) (R126). -/
def resultMedian (i : SrcImage) : List Nat := layout i.h i.w i.c fun r c ch => median25 (window25 i r c ch)

/-- MEDIAN, issued (R83, R126). -/
def execMedian (s : State) : Host.Outcome State Fault Refusal := issueImage .median s

end Sys2Proof.Machine
end

