-- ==== Sys2Proof/Machine/Completion.lean ====
section
/-! DEFINITION. The core agent's one step, the completion of the command in flight (40_command_flow.md R90, R91), with
R44's rule for a source that holds an unspecified byte. -/

namespace Sys2Proof.Machine

/-- `Result(op, srcBytes, par)` (R91), as the numbers of the destination extent in the order of R50. -/
def resultPixels (p : Params) (f : Inflight) (i : SrcImage) : List Nat :=
  match f.op with
  | .cstretch => resultCstretch i
  | .gamma    => resultGamma i f.par.g
  | .histeq   => resultHisteq i
  | .butter   => resultButter p i f.par
  | .wiener   => resultWiener p i f.par
  | .median   => resultMedian i

/-- The source image of a record, if every byte of its extent is specified (R54, R44). The core reads it at completion:
the bytes are those of the issue (R61; log entry 13). -/
def sourceImage (m : Memory) (f : Inflight) : Option SrcImage :=
  match Memory.readBytes m f.src.base f.src.size with
  | some bs => some ⟨f.src.h, f.src.w, f.src.c, bs.map BitVec.toNat⟩
  | none => none

/-- The pixel memory after the completion (R91, R96): the result over the destination extent; every destination byte
unspecified if a source byte is (R44, U4). -/
def storeResult (p : Params) (f : Inflight) (m : Memory) : Memory :=
  match sourceImage m f with
  | some i => Memory.writeBytes f.dst.base ((resultPixels p f i).map (BitVec.ofNat 8)) m
  | none => Memory.forget f.dst.base f.dst.size m

/-- Completion (R91), one atomic step (R59); with nothing in flight the core has no step (R90, R144). What
unspecified bytes read as after it is new (log entry 5). -/
def complete (s : State) : State :=
  match s.inflight with
  | none => s
  | some f =>
    { s with
      pmem := storeResult s.params f s.pmem
      regs := s.regs.finish f.op.opcode
      inflight := none
      epoch := s.epoch + 1 }

/-- The core's turn. While the reset input is asserted the core takes no step: "the reset wins" (R134; log entry 8). -/
def coreTurn (s : State) : State := if s.resetAsserted then s else complete s

end Sys2Proof.Machine
end

