-- ==== Sys2Proof/Machine/Dispatch.lean ====
section
/-! DEFINITION. What a command word's issue does (R83), one arm per command of R75. -/

namespace Sys2Proof.Machine

def exec (i : Instr) (s : State) : Host.Outcome State Fault Refusal :=
  match i with
  | .nop => Sys2Proof.Machine.execNop s
  | .cstretch => Sys2Proof.Machine.execCstretch s
  | .gamma => Sys2Proof.Machine.execGamma s
  | .histeq => Sys2Proof.Machine.execHisteq s
  | .butter => Sys2Proof.Machine.execButter s
  | .wiener => Sys2Proof.Machine.execWiener s
  | .median => Sys2Proof.Machine.execMedian s

end Sys2Proof.Machine
end

