-- ==== Sys2Proof/Machine/Bus.lean ====
section
/-! DEFINITION. The host's bus accesses (20_memory.md R45 to R49, R57, R62; 60_exceptions.md R136): the address map, the
legal accesses and the bus errors, the CMD write that issues a command (R27, R83), and what an access does while the
reset input is asserted (70_reset_and_hazards.md R145). -/

namespace Sys2Proof.Machine

/-- What an offset of the window holds (R46). -/
inductive Target where
  | register (off : Nat)
  | pmem (off : Nat)
  | reserved
  deriving DecidableEq, Repr

/-- The address is in the core's 32 MiB window (R46). -/
def inWindow (p : Params) (addr : BitVec 32) : Bool := addr.extractLsb' 25 7 == p.baseWindow

/-- The offset from `BASE_ADDR` of an address in the window (R69). -/
def windowOffset (addr : BitVec 32) : Nat := (addr.extractLsb' 0 25).toNat

/-- The address map of R46. -/
def target (p : Params) (off : Nat) : Target :=
  if off < 0x1000 then .register off
  else if 0x1000000 ≤ off ∧ off < 0x1000000 + p.pmemBytes then .pmem (off - 0x1000000)
  else .reserved

/-- An access of n bytes at PMEM offset a is legal (R49): naturally aligned and not past the end. -/
def pmemLegal (p : Params) (a n : Nat) : Bool := a % n == 0 && a + n ≤ p.pmemBytes

/-- A bus error (R136): "changes no state of the core"; the bus answers with its error response. -/
def busError (s : State) : State := s.respond .fault

/-- A CMD write of a word that is no command (R86 check 1, R76, R77), lost while BUSY like any other (R84). -/
def illegalCommand (w : Word) (s : State) : State :=
  if s.regs.busy then commandLost s else errorComplete (opField w) .illegalCmd s

/-- A 32-bit write to CMD (R27, R83): "This is the whole effect of that write". -/
def issue (w : Word) (s : State) : Host.Outcome State Fault Refusal :=
  match decode w with
  | .command i => exec i s
  | .illegal _ => .next (illegalCommand w s)

/-- A legal 32-bit register write (R18, R48): CMD issues, an unlisted offset ignores it. -/
def registerWrite (off : Nat) (v : Word) (s : State) : Host.Outcome State Fault Refusal :=
  match regAt off with
  | none => .next s
  | some .cmd => issue v s
  | some r => .next (regWrite v s r)

/-- A legal 32-bit register read (R18, R48): an unlisted offset returns 0. -/
def registerRead (off : Nat) (s : State) : Word :=
  match regAt off with
  | none => 0#32
  | some r => regRead s r

/-- A host read at a window offset (R46, R48, R49). -/
def busRead (off : Nat) (w : Width) (s : State) : State :=
  match target s.params off with
  | .register a =>
    if w = .w32 ∧ a % 4 = 0 then s.respond (.data (.b32 (registerRead a s))) else busError s
  | .pmem a => if pmemLegal s.params a w.bytes then s.respond (.data (pmemRead a w s)) else busError s
  | .reserved => busError s

/-- A host write at a window offset (R46, R48, R49). -/
def busWrite (off : Nat) (d : Datum) (s : State) : Host.Outcome State Fault Refusal :=
  match target s.params off with
  | .register a =>
    match d with
    | .b32 v => if a % 4 = 0 then registerWrite a v (s.respond .done) else .next (busError s)
    | .b16 _ => .next (busError s)
    | .b8 _ => .next (busError s)
  | .pmem a =>
    if pmemLegal s.params a d.width.bytes then .next (pmemWrite a d (s.respond .done)) else .next (busError s)
  | .reserved => .next (busError s)

/-- "While reset is asserted, the core ignores bus accesses: a read returns any value and a write has no effect"
(R145, U5). -/
def accessInReset (a : Access) (s : State) : State :=
  match a with
  | .read addr w => s.respond (.data (datumOfBytes (fun k => Config.freeRead s.draws (addr.toNat + k)) w))
  | .write _ _ => s.respond .done

/-- One host access (R57). -/
def hostAccess (a : Access) (s : State) : Host.Outcome State Fault Refusal :=
  match a with
  | .read addr w =>
    if inWindow s.params addr then
      if s.resetAsserted then .next (accessInReset a s) else .next (busRead (windowOffset addr) w s)
    else .fault .outsideWindow
  | .write addr d =>
    if inWindow s.params addr then
      if s.resetAsserted then .next (accessInReset a s) else busWrite (windowOffset addr) d s
    else .fault .outsideWindow

end Sys2Proof.Machine
end

