-- ==== Sys2Proof/Machine/Agents.lean ====
section
/-! DEFINITION. The agents' turns: the host's accesses, the core's completion step and the reset input, in the one total
order of 20_memory.md R57 (log entry 1). -/

namespace Sys2Proof.Machine

/-- The state in which an access runs: its turn taken off the list, and counted as a read or as something that happens. -/
def takeTurn (a : Access) (rest : List Turn) (s : State) : State :=
  match a with
  | .read _ _ => s.advanceRead rest
  | .write _ _ => s.advance rest

/-- The release of the reset input (R145); without an assertion before it, it is no edge and does nothing
(log entry 8). -/
def releaseTurn (s : State) : State := if s.resetAsserted then hardReset s else s

/-- One turn. With no turn waiting the host does nothing: the core then takes its step if it has one (R90), and is idle
otherwise (R144). -/
def runTurn (s : State) : Host.Outcome State Fault Refusal :=
  match s.turns with
  | [] => .next (coreTurn s)
  | .host a :: rest => hostAccess a (takeTurn a rest s)
  | .core :: rest => .next (coreTurn (s.pass rest))
  | .assertReset :: rest => .next { s.advance rest with resetAsserted := true }
  | .releaseReset :: rest => .next (releaseTurn (s.pass rest))

/-- The platform address of a register (R17, R46). -/
def regAddr (p : Params) (r : RegName) : BitVec 32 := p.baseWindow ++ BitVec.ofNat 25 (regOffset r)

/-- The platform address of a PMEM offset (R46). -/
def pmemAddr (p : Params) (a : Nat) : BitVec 32 := p.baseWindow ++ BitVec.ofNat 25 (0x1000000 + a)

/-- The host's CMD write of a command word (R27). -/
def commandWrite (p : Params) (w : Word) : Access := .write (regAddr p .cmd) (.b32 w)

end Sys2Proof.Machine
end

