-- ==== Sys2Proof/Machine/Step.lean ====
section
/-! DEFINITION. The machine's step: one turn of one agent. -/

namespace Sys2Proof.Machine

/-- One step: the next turn of `State.turns`. -/
def step (s : State) : Host.Outcome State Fault Refusal := runTurn s

/-- The state whose next turn is the host's CMD write of the command word `w` (its bits above `nbits` 0), with the reset
input released. The core "fetches no instructions" (R16): a command comes as a host access, so this is where the next one
waits (log entry 2). -/
def State.withFetchWord (s : State) (nbits w : Nat) : State :=
  { s with
    resetAsserted := false
    turns := .host (commandWrite s.params (BitVec.ofNat 32 (w % 2 ^ nbits))) :: s.turns }

end Sys2Proof.Machine
end

