-- ==== Sys2Proof/Machine/Ideal.lean ====
section
/-! DEFINITION. The rules' formulas over the rational, the real and the complex numbers, word for word (00_scope.md R12,
41_contrast_enhancer.md R104, R109, R110, 42_restoration_filter.md R115 to R122). The machine never runs them: they are what the
integer computations of Contrast.lean, Cyclotomic.lean and Spectrum.lean are held against, in statements. -/

namespace Sys2Proof.Machine

/-- `quant(x)` = ⌊clamp(x, 0, 255)⌋ for a real x (R12). -/
noncomputable def idealQuant (x : ℝ) : ℕ := ⌊min 255 (max 0 x)⌋₊

/-- `rne(x)` for a real x: "the integer nearest", the even one when exactly halfway (R12). -/
noncomputable def idealRne (x : ℝ) : ℤ :=
  if x - ⌊x⌋ < 1 / 2 then ⌊x⌋
  else if 1 / 2 < x - ⌊x⌋ then ⌊x⌋ + 1
  else if ⌊x⌋ % 2 = 0 then ⌊x⌋
  else ⌊x⌋ + 1

/-- gammaLUT(G)[i] as R104 states it: clamp(rne(255·(i/255)^(256/G)), 0, 255). -/
noncomputable def idealGammaLut (g i : ℕ) : ℤ :=
  min 255 (max 0 (idealRne (255 * ((i : ℝ) / 255) ^ ((256 : ℝ) / (g : ℝ)))))

/-- e^{iθ} (R12). -/
noncomputable def cis (θ : ℝ) : ℂ := Complex.exp (θ * Complex.I)

/-- DFT2(g)[u][v] (R115). -/
noncomputable def idealDft2 (h w : ℕ) (g : ℕ → ℕ → ℂ) (u v : ℕ) : ℂ :=
  ∑ r ∈ Finset.range h, ∑ c ∈ Finset.range w,
    g r c * cis (-(2 * Real.pi * ((u * r : ℝ) / h + (v * c : ℝ) / w)))

/-- IDFT2(P)[r][c] (R116). -/
noncomputable def idealIdft2 (h w : ℕ) (spec : ℕ → ℕ → ℂ) (r c : ℕ) : ℂ :=
  (1 / ((h : ℂ) * w)) * ∑ u ∈ Finset.range h, ∑ v ∈ Finset.range w,
    spec u v * cis (2 * Real.pi * ((u * r : ℝ) / h + (v * c : ℝ) / w))

/-- D2(p, q) (R118). -/
noncomputable def idealDist2 (h w p q : ℕ) : ℝ := ((p : ℝ) - (h / 2 : ℕ)) ^ 2 + ((q : ℝ) - (w / 2 : ℕ)) ^ 2

/-- BW(p, q) in the source's form, which R118 quotes: 1 / (1 + (D/cutoff)^(2·order)), D = sqrt(D2). -/
noncomputable def idealMask (h w cut ord p q : ℕ) : ℝ :=
  1 / (1 + (Real.sqrt (idealDist2 h w p q) / cut) ^ (2 * ord))

/-- x[r][c] of BUTTER (R119, R122): |IDFT2(F·BW)|. -/
noncomputable def idealButter (h w : ℕ) (g : ℕ → ℕ → ℕ) (cut ord r c : ℕ) : ℝ :=
  ‖idealIdft2 h w (fun u v =>
    idealDft2 h w (fun r c => (g r c : ℂ)) u v * (idealMask h w cut ord ((u + h / 2) % h) ((v + w / 2) % w) : ℂ)) r c‖

/-- kern (R120): 1/k² in the top-left k×k corner. -/
noncomputable def idealKernel (k r c : ℕ) : ℂ := if r < k ∧ c < k then 1 / (k : ℂ) ^ 2 else 0

/-- Wf[u][v] (R121): conj(Hb) / (|Hb|² + np), np = NP/2^24. -/
noncomputable def idealWienerFactor (h w k np u v : ℕ) : ℂ :=
  (starRingEnd ℂ) (idealDft2 h w (idealKernel k) u v) /
    ((‖idealDft2 h w (idealKernel k) u v‖ ^ 2 + (np : ℝ) / 2 ^ 24 : ℝ) : ℂ)

/-- x[r][c] of WIENER (R119, R122): |IDFT2(Wf·F)|. -/
noncomputable def idealWiener (h w : ℕ) (g : ℕ → ℕ → ℕ) (k np r c : ℕ) : ℝ :=
  ‖idealIdft2 h w (fun u v =>
    idealWienerFactor h w k np u v * idealDft2 h w (fun r c => (g r c : ℂ)) u v) r c‖

/-- The lower end of FREQ_TOL's enclosure (R7; log entry 4). -/
noncomputable def freqTolLow (p : Params) : ℝ := (p.freqTolBelow : ℝ) / p.freqTolDen

/-- The upper end of FREQ_TOL's enclosure (R7; log entry 4). -/
noncomputable def freqTolHigh (p : Params) : ℝ := (p.freqTolAbove : ℝ) / p.freqTolDen

/-- The enclosure gives the range that R123 admits around x for FREQ_TOL = t. -/
def sameRange (p : Params) (t x : ℝ) : Prop :=
  idealQuant (x - freqTolLow p) = idealQuant (x - t) ∧ idealQuant (x + freqTolHigh p) = idealQuant (x + t)

/-- The parameters give FREQ_TOL = t (R7, "a real number ≥ 0"): the enclosure holds t, and it is so tight that for every
image up to MAX_DIM, every pixel and every parameter value that R97 admits it gives t's own range (log entry 4). -/
def givesTolerance (p : Params) (t : ℝ) : Prop :=
  freqTolLow p ≤ t ∧ t ≤ freqTolHigh p ∧
  ∀ (h w : ℕ) (g : ℕ → ℕ → ℕ) (r c : ℕ), h ≤ p.maxDim → w ≤ p.maxDim → r < h → c < w →
    (∀ i j, g i j ≤ 255) →
    (∀ cut ord, 1 ≤ cut → cut ≤ 65535 → 1 ≤ ord → ord ≤ 255 → sameRange p t (idealButter h w g cut ord r c)) ∧
    (∀ k np, 1 ≤ k → k ≤ 255 → k ≤ min h w → 1 ≤ np → np < 2 ^ 32 → sameRange p t (idealWiener h w g k np r c))

/-! ### The luma, chroma and gray formulas of R109, R110 and R113 -/

/-- `asr(x, 14)` = ⌊x / 2^14⌋ (R12), as the floor of a rational number. -/
def idealDescale (x : ℤ) : ℤ := ⌊(x : ℚ) / 16384⌋

/-- `sat8` = clamp to 0..255 (R12). -/
def idealSat8 (x : ℤ) : ℤ := min 255 (max 0 x)

/-- Y of R109, and toGray of R113. -/
def idealLuma (b g r : ℕ) : ℤ := idealDescale (1868 * b + 9617 * g + 4899 * r + 8192)

/-- Cr of R109. -/
def idealCr (b g r : ℕ) : ℤ := idealSat8 (idealDescale ((r - idealLuma b g r) * 11682 + 128 * 16384 + 8192))

/-- Cb of R109. -/
def idealCb (b g r : ℕ) : ℤ := idealSat8 (idealDescale ((b - idealLuma b g r) * 9241 + 128 * 16384 + 8192))

/-- Channel 0, 1, 2 of fromYCrCb(Y, Cr, Cb): B, G, R of R110. -/
def idealFromYCrCb (y cr cb : ℤ) (ch : ℕ) : ℤ :=
  if ch = 0 then idealSat8 (y + idealDescale ((cb - 128) * 29049 + 8192))
  else if ch = 1 then idealSat8 (y + idealDescale ((cr - 128) * (-11698) + (cb - 128) * (-5636) + 8192))
  else idealSat8 (y + idealDescale ((cr - 128) * 22987 + 8192))

/-- The complex number Σ_j a_j ζ^j that a `Cyc` of n coefficients stands for, ζ = e^{2πi/n}. -/
noncomputable def Cyc.value (n : ℕ) (a : Cyc) : ℂ :=
  ∑ j ∈ Finset.range n, (Cyc.coef a j : ℂ) * cis (2 * Real.pi * j / n)

end Sys2Proof.Machine
end

