-- ==== Sys2Proof/Machine/Script.lean ====
section
/-! DEFINITION. The host-script notation (30_encoding.md R80, R81): each line as the host accesses it stands for. The
host itself is outside the machine: these are inputs for `State.turns`. -/

namespace Sys2Proof.Machine

/-- `wr <reg>, <value32>` (R80). -/
def scriptWr (p : Params) (r : RegName) (v : Word) : Access := .write (regAddr p r) (.b32 v)

/-- `rd <reg>` (R80). -/
def scriptRd (p : Params) (r : RegName) : Access := .read (regAddr p r) .w32

/-- `wr8 PMEM+<off>, <value8>` (R80). -/
def scriptWr8 (p : Params) (off : Nat) (v : BitVec 8) : Access := .write (pmemAddr p off) (.b8 v)

/-- `wr16 PMEM+<off>, <value16>` (R80). -/
def scriptWr16 (p : Params) (off : Nat) (v : BitVec 16) : Access := .write (pmemAddr p off) (.b16 v)

/-- `wr32 PMEM+<off>, <value32>` (R80). -/
def scriptWr32 (p : Params) (off : Nat) (v : BitVec 32) : Access := .write (pmemAddr p off) (.b32 v)

/-- `rd8 PMEM+<off>` (R80). -/
def scriptRd8 (p : Params) (off : Nat) : Access := .read (pmemAddr p off) .w8

/-- `rd32 PMEM+<off>` (R80). -/
def scriptRd32 (p : Params) (off : Nat) : Access := .read (pmemAddr p off) .w32

/-- `cmd <MNEMONIC>` (R81). -/
def scriptCmd (p : Params) (i : Instr) : List Access := [scriptWr p .cmd (encode i)]

/-- `img <src>, <dst>, <H>, <W>, <C>` (R81). -/
def scriptImg (p : Params) (src dst h w c : Nat) : List Access :=
  [scriptWr p .srcBase (BitVec.ofNat 32 src), scriptWr p .dstBase (BitVec.ofNat 32 dst),
    scriptWr p .dim (BitVec.ofNat 32 (h <<< 16 ||| w)), scriptWr p .fmt (BitVec.ofNat 32 c)]

/-- `wait` (R81) is a host loop, "repeat L while bit 1 (DONE) = 0": the host's polls, as many as it makes (log entry 14
for the `wait` that never ends). -/
def scriptPolls (p : Params) (n : Nat) : List Access := List.replicate n (scriptRd p .status)

/-- The condition on which `wait` ends (R81): bit 1 of the STATUS word read. -/
def waitEnds (v : Word) : Bool := v.getLsbD 1

/-- `ack` (R81): "clears DONE, OVR and HAZ". -/
def scriptAck (p : Params) : List Access := [scriptWr p .status 0x32#32]

/-- `pix <off>, b0, b1, ...` (R81): "one wr8 PMEM+<off+i>, b_i per byte". -/
def scriptPix (p : Params) (off : Nat) : List Byte → List Access
  | [] => []
  | b :: bs => scriptWr8 p off b :: scriptPix p (off + 1) bs

end Sys2Proof.Machine
end

