-- ==== Sys2Proof/Safety.lean ====
section
/-! DEFINITION. What claims use: the invariant of the machine, and the reading of an outcome. -/

namespace Sys2Proof.Machine

/-- The record in flight passed R86's checks, and its destination has the shape of R51 and the channels of R95. -/
def recordOk (p : Params) (f : Inflight) : Prop :=
  checkImage p f = .ok ∧ f.dst.h = f.src.h ∧ f.dst.w = f.src.w ∧ f.dst.c = cout f.op f.src.c

/-- The invariant every step keeps: the parameters are in R7's ranges; the pixel memory has its canonical form and lists
no offset past PMEM_BYTES − 1 (R38); BUSY = 1 exactly while a command is in flight (R23, R40); ERR_CODE is one of 0..6
(R129, U9); and a record in flight is one that passed its checks (R89). -/
structure State.Inv (s : State) : Prop where
  params : s.params.legal = true
  memory : Memory.wf s.pmem
  inside : ∀ x ∈ s.pmem, x.1 < s.params.pmemBytes
  busy   : s.regs.busy = s.inflight.isSome
  code   : s.regs.errCode.toNat ≤ 6
  record : ∀ f, s.inflight = some f → recordOk s.params f

/-- "A host that needs a definite outcome waits" (R134): no hazard has been recorded (R26). -/
def State.hazardFree (s : State) : Prop := s.regs.ovr = false ∧ s.regs.haz = false

/-- The state an outcome goes on with, if it does. -/
def nextState : Host.Outcome State Fault Refusal → Option State
  | .next s => some s
  | .fault _ => none
  | .refused _ => none

/-! ### The terms of the statements about commands, in register fields (R71 to R74, R85) -/

/-- The command that runs an image operation (R75). -/
def imageInstr : ImageOp → Instr
  | .cstretch => .cstretch
  | .gamma    => .gamma
  | .histeq   => .histeq
  | .butter   => .butter
  | .wiener   => .wiener
  | .median   => .median

/-- H = DIM[31:16] (R71). -/
def rows (s : State) : Nat := s.regs.dimH.toNat

/-- W = DIM[15:0] (R71). -/
def cols (s : State) : Nat := s.regs.dimW.toNat

/-- C = FMT[2:0] (R71). -/
def channels (s : State) : Nat := s.regs.fmtCh.toNat

/-- H·W·C bytes (R13). For a command that is accepted it is the size of the source and of the destination (R95). -/
def imageSize (s : State) : Nat := rows s * cols s * channels s

/-- The PMEM offset of the source pixel (r, c, ch) (R50, R71). -/
def srcOffset (s : State) (r c ch : Nat) : Nat := s.regs.srcBase.toNat + (r * cols s + c) * channels s + ch

/-- The PMEM offset of the destination pixel (r, c, ch) (R50, R71), for a command that keeps the channel count (R95). -/
def dstOffset (s : State) (r c ch : Nat) : Nat := s.regs.dstBase.toNat + (r * cols s + c) * channels s + ch

/-- C ∈ Accept(op) (R95). -/
def channelsAccepted (op : ImageOp) (s : State) : Prop :=
  channels s = 3 ∨ (channels s = 1 ∧ (op = .cstretch ∨ op = .gamma ∨ op = .histeq))

/-- ParamBad(op, s) (R97). -/
def paramWrong (op : ImageOp) (s : State) : Prop :=
  (op = .gamma ∧ s.regs.gammaG = 0#16) ∨
  (op = .butter ∧ (s.regs.bwCut = 0#16 ∨ s.regs.bwOrd = 0#8)) ∨
  (op = .wiener ∧ (s.regs.wnK = 0#8 ∨ min (rows s) (cols s) < s.regs.wnK.toNat ∨ s.regs.wnNp = 0#32))

/-- The conditions under which an image command passes every check of R86 with BUSY = 0, read off the registers. -/
structure Issuable (op : ImageOp) (s : State) : Prop where
  idle     : s.regs.busy = false
  rowsOk   : 0 < rows s ∧ rows s ≤ s.params.maxDim
  colsOk   : 0 < cols s ∧ cols s ≤ s.params.maxDim
  accepted : channelsAccepted op s
  paramOk  : ¬ paramWrong op s
  srcFits  : s.regs.srcBase.toNat + imageSize s ≤ s.params.pmemBytes
  dstFits  : s.regs.dstBase.toNat + imageSize s ≤ s.params.pmemBytes
  apart    : s.regs.srcBase.toNat + imageSize s ≤ s.regs.dstBase.toNat ∨
    s.regs.dstBase.toNat + imageSize s ≤ s.regs.srcBase.toNat

/-- The source extent holds the pixels `px r c ch`, every one specified (R50, R94). -/
def SourceIs (s : State) (px : Nat → Nat → Nat → Nat) : Prop :=
  ∀ r c ch, r < rows s → c < cols s → ch < channels s →
    px r c ch < 256 ∧ Memory.read s.pmem (srcOffset s r c ch) = some (BitVec.ofNat 8 (px r c ch))

/-- The state a started command leaves (R89): BUSY set and the record of R85 taken, nothing else changed. -/
def issued (op : ImageOp) (s : State) : State :=
  { s with
    regs := { s.regs with busy := true }
    inflight := some
      { op := op
        src := ⟨s.regs.srcBase.toNat, rows s, cols s, channels s⟩
        dst := ⟨s.regs.dstBase.toNat, rows s, cols s, channels s⟩
        par := ⟨s.regs.gammaG.toNat, s.regs.bwCut.toNat, s.regs.bwOrd.toNat, s.regs.wnK.toNat, s.regs.wnNp.toNat⟩ } }

/-- The state `u` after the completion of a command issued in `s` (R91, R100), but for the destination's pixels: the
status of R91, no record, and every byte outside the destination extent as it was at issue. -/
structure Completed (op : ImageOp) (s : State) (rest : List Turn) (u : State) : Prop where
  params   : u.params = s.params
  regs     : u.regs = { s.regs with busy := false, done := true, errCode := 0#4, lastOp := op.opcode }
  inflight : u.inflight = none
  reset    : u.resetAsserted = s.resetAsserted
  turns    : u.turns = rest
  resp     : u.resp = s.resp
  frame    : ∀ a, ¬ (s.regs.dstBase.toNat ≤ a ∧ a < s.regs.dstBase.toNat + imageSize s) →
    Memory.read u.pmem a = Memory.read s.pmem a

/-- The command of `op` runs in `s`: its issue answers the started state, and the core's turn after it answers the
completed state, in which each destination pixel (r, c, ch) satisfies `pixel` (R83, R91). -/
def RunsTo (op : ImageOp) (s : State) (rest : List Turn) (pixel : Nat → Nat → Nat → Nat → Prop) : Prop :=
  exec (imageInstr op) s = .next (issued op s) ∧
    ∃ u, step { issued op s with turns := .core :: rest } = .next u ∧ Completed op s rest u ∧
      ∀ r c ch, r < rows s → c < cols s → ch < channels s →
        ∃ v, v < 256 ∧ Memory.read u.pmem (dstOffset s r c ch) = some (BitVec.ofNat 8 v) ∧ pixel r c ch v

end Sys2Proof.Machine
end

