-- ==== Sys2Proof/Certificates/Slice0/Obligations.lean ====
section
/-! DEFINITION. The statements for the provers. Each docstring names the rule it formalises. -/

open Sys2Proof Sys2Proof.Machine

/-! ### Encoding -/

/-- R75: the seven words of the opcode map, each decoding to its command and encoded by it; and the opcodes that LAST_OP
records for the image commands (R25: CMD[7:0]). -/
def Obligations.CommandWordsDecodeAsTabled : Prop :=
  (decode 0x00000000#32 = .command .nop ∧ encode .nop = 0x00000000#32) ∧
  (decode 0x00000001#32 = .command .cstretch ∧ encode .cstretch = 0x00000001#32) ∧
  (decode 0x00000002#32 = .command .gamma ∧ encode .gamma = 0x00000002#32) ∧
  (decode 0x00000003#32 = .command .histeq ∧ encode .histeq = 0x00000003#32) ∧
  (decode 0x00000004#32 = .command .butter ∧ encode .butter = 0x00000004#32) ∧
  (decode 0x00000005#32 = .command .wiener ∧ encode .wiener = 0x00000005#32) ∧
  (decode 0x00000006#32 = .command .median ∧ encode .median = 0x00000006#32) ∧
  (ImageOp.cstretch.opcode = 0x01#8 ∧ ImageOp.gamma.opcode = 0x02#8 ∧ ImageOp.histeq.opcode = 0x03#8 ∧
    ImageOp.butter.opcode = 0x04#8 ∧ ImageOp.wiener.opcode = 0x05#8 ∧ ImageOp.median.opcode = 0x06#8)

/-- R70, R75: a word decodes to a command exactly when it is that command's encoding. One direction is the round trip;
the other says that no second word decodes to it. -/
def Obligations.DecodeInvertsEncodeOnEveryWord : Prop :=
  ∀ (w : Word) (i : Instr), decode w = .command i ↔ w = encode i

/-- R76, R77: the words that are no command are exactly those with RSV ≠ 0 and those with an opcode in 0x07..0xFF, each
rejected under its own name; RSV is looked at first. -/
def Obligations.ReservedWordsRejectedByName : Prop :=
  ∀ w : Word,
    (decode w = .illegal .reservedBits ↔ w.toNat / 256 ≠ 0) ∧
    (decode w = .illegal .reservedOpcode ↔ w.toNat / 256 = 0 ∧ 7 ≤ w.toNat % 256)

/-! ### The step and the issue -/

/-- R27, R83: a 32-bit host write of a command's word to CMD is that command's issue. Around `exec` the step takes the
turn off the list (log entry 1), starts a new epoch of free values (log entry 5), and answers the write (log entry 11). -/
def Obligations.StepIssuesTheDecodedCommand : Prop :=
  ∀ (s : State) (w : Word) (i : Instr) (rest : List Turn),
    s.turns = .host (.write (s.params.baseWindow ++ 0x010#25) (.b32 w)) :: rest → s.resetAsserted = false →
    decode w = .command i →
    step s = exec i { s with turns := rest, epoch := s.epoch + 1, resp := some .done }

/-- R76, R77, R88: a word that is no command completes in the issue step with ERR_CODE = ILLEGAL_CMD (1), DONE set and
LAST_OP the word's bits [7:0]; nothing else changes. The turns, the epoch and the answer are the model's (log entries 1, 5,
11). -/
def Obligations.IllegalWordCompletesAtIssue : Prop :=
  ∀ (s : State) (w : Word) (rest : List Turn),
    s.turns = .host (.write (s.params.baseWindow ++ 0x010#25) (.b32 w)) :: rest → s.resetAsserted = false →
    s.regs.busy = false → (w.toNat / 256 ≠ 0 ∨ 7 ≤ w.toNat % 256) →
    step s = .next
      { s with
        turns := rest, epoch := s.epoch + 1, resp := some .done
        regs := { s.regs with done := true, errCode := 1#4, lastOp := BitVec.ofNat 8 (w.toNat % 256) } }

/-- R84: a CMD write while BUSY = 1, of any word, "has only this effect: R[STATUS].OVR <- 1". That the bus answers a lost
write as any other is log entry 16 (DEDUCED); the turns and the epoch are the model's (log entries 1, 5). -/
def Obligations.CommandWriteWhileBusyIsLost : Prop :=
  ∀ (s : State) (w : Word) (rest : List Turn),
    s.turns = .host (.write (s.params.baseWindow ++ 0x010#25) (.b32 w)) :: rest → s.resetAsserted = false →
    s.regs.busy = true →
    step s = .next
      { s with
        turns := rest, epoch := s.epoch + 1, resp := some .done
        regs := { s.regs with ovr := true } }

/-- R93: NOP completes in its issue step: DONE set, ERR_CODE and LAST_OP 0, nothing else changed; whatever DIM, FMT and
the bases hold. -/
def Obligations.NopCompletesAtIssue : Prop :=
  ∀ s : State, s.regs.busy = false →
    exec .nop s = .next { s with regs := { s.regs with done := true, errCode := 0#4, lastOp := 0x00#8 } }

/-- R85, R89: an image command that passes every check takes the in-flight record of its registers and sets BUSY; "DONE,
ERR_CODE and LAST_OP are not written at the start", nor is anything else. -/
def Obligations.PassingCommandStarts : Prop :=
  ∀ (op : ImageOp) (s : State), Issuable op s → exec (imageInstr op) s = .next (issued op s)

/-- R86, R88: a command that fails a check completes in its issue step with the code of the FIRST failing check in R86's
order (BAD_DIM 2, INVALID_CHANNEL_COUNT 3, PARAM_OUT_OF_RANGE 4, BOUNDS 5, ALIAS 6); only DONE, ERR_CODE and LAST_OP are
written. The bounds are those of R87, with the destination's channels R95's Cout. -/
def Obligations.FirstFailingCheckIsReported : Prop :=
  ∀ (op : ImageOp) (s : State) (code : BitVec 4), s.regs.busy = false →
    (open Classical in
      code =
        (if rows s = 0 ∨ cols s = 0 ∨ s.params.maxDim < rows s ∨ s.params.maxDim < cols s then 2#4
        else if ¬ channelsAccepted op s then 3#4
        else if paramWrong op s then 4#4
        else if s.params.pmemBytes < s.regs.srcBase.toNat + imageSize s ∨
            s.params.pmemBytes < s.regs.dstBase.toNat + imageSize s then 5#4
        else if s.regs.srcBase.toNat < s.regs.dstBase.toNat + imageSize s ∧
            s.regs.dstBase.toNat < s.regs.srcBase.toNat + imageSize s then 6#4
        else 0#4)) →
    code ≠ 0#4 →
    exec (imageInstr op) s =
      .next { s with regs := { s.regs with done := true, errCode := code, lastOp := op.opcode } }

/-! ### The commands' results -/

/-- R101 with R91: CSTRETCH runs, and each destination pixel is the source pixel where its channel is degenerate and
((p − mn)·255) // (mx − mn) otherwise, mn and mx being the least and the greatest value of its own channel. -/
def Obligations.CstretchStretchesEachChannel : Prop :=
  ∀ (s : State) (rest : List Turn) (px : Nat → Nat → Nat → Nat),
    s.resetAsserted = false → Issuable .cstretch s → SourceIs s px →
    RunsTo .cstretch s rest fun r c ch v =>
      ∀ mn mx : Nat,
        IsLeast { x | ∃ r' c', r' < rows s ∧ c' < cols s ∧ x = px r' c' ch } mn →
        IsGreatest { x | ∃ r' c', r' < rows s ∧ c' < cols s ∧ x = px r' c' ch } mx →
        v = if mx = mn then px r c ch else ((px r c ch - mn) * 255) / (mx - mn)

/-- R103, R105 with R91: GAMMA runs, and each destination pixel is the LUT's entry of its source pixel, by R105's
count #{ k ∈ 0..254 : (2k+1)^G · 255^256 < i^256 · 510^G }. -/
def Obligations.GammaAppliesTheLut : Prop :=
  ∀ (s : State) (rest : List Turn) (px : Nat → Nat → Nat → Nat),
    s.resetAsserted = false → Issuable .gamma s → SourceIs s px →
    RunsTo .gamma s rest fun r c ch v =>
      v = ((Finset.range 255).filter fun k =>
        (2 * k + 1) ^ s.regs.gammaG.toNat * 255 ^ 256 < px r c ch ^ 256 * 510 ^ s.regs.gammaG.toNat).card

/-- The number of pixels of an H × W plane with a value at most v: cdf[v] of R107. -/
def Sys2Proof.Machine.countUpTo (h w : Nat) (y : Nat → Nat → Nat) (v : Nat) : Nat :=
  ((Finset.range h ×ˢ Finset.range w).filter fun rc => y rc.1 rc.2 ≤ v).card

/-- R107 for the value v of an H × W plane y that has v among its values: v itself on a constant plane, and
rne((cdf[v] − cmin)·255 / (N − cmin)) otherwise, cmin = cdf of the least value, with R12's rne of the real quotient
(`idealRne`). -/
def Sys2Proof.Machine.EqualizedTo (h w : Nat) (y : Nat → Nat → Nat) (v out : Nat) : Prop :=
  ∀ v0 : Nat, IsLeast { x | ∃ r c, r < h ∧ c < w ∧ x = y r c } v0 →
    (out : ℤ) = if countUpTo h w y v0 = h * w then (v : ℤ)
      else idealRne (((countUpTo h w y v : ℝ) - countUpTo h w y v0) * 255 / ((h : ℝ) * w - countUpTo h w y v0))

/-- R12, R107, R108 with R91, C = 1: HISTEQ runs, and each destination pixel is the equalization of its source pixel. -/
def Obligations.HisteqEqualizesGray : Prop :=
  ∀ (s : State) (rest : List Turn) (px : Nat → Nat → Nat → Nat),
    s.resetAsserted = false → Issuable .histeq s → SourceIs s px → channels s = 1 →
    RunsTo .histeq s rest fun r c _ v =>
      EqualizedTo (rows s) (cols s) (fun r' c' => px r' c' 0) (px r c 0) v

/-- R12, R107 to R110 with R91, C = 3: HISTEQ runs; there is a luma y', the equalization of the pixel's luma on the luma
plane, and the destination pixel is fromYCrCb(y', Cr, Cb) of that luma with the pixel's own chroma. Luma, chroma and
fromYCrCb are the rules' formulas, written out in Ideal.lean. -/
def Obligations.HisteqEqualizesLumaOnly : Prop :=
  ∀ (s : State) (rest : List Turn) (px : Nat → Nat → Nat → Nat),
    s.resetAsserted = false → Issuable .histeq s → SourceIs s px → channels s = 3 →
    RunsTo .histeq s rest fun r c ch v =>
      ∃ y' : Nat,
        EqualizedTo (rows s) (cols s) (fun r' c' => (idealLuma (px r' c' 0) (px r' c' 1) (px r' c' 2)).toNat)
          (idealLuma (px r c 0) (px r c 1) (px r c 2)).toNat y' ∧
        (v : ℤ) = idealFromYCrCb y' (idealCr (px r c 0) (px r c 1) (px r c 2))
          (idealCb (px r c 0) (px r c 1) (px r c 2)) ch

/-- R124, R127 (c) with R91: BUTTER runs, and its destination is one plane q written to all three channels (R114), q being
`freqPixel` of the masked spectrum of the gray plane (R113). What that pixel is in real numbers is
`ButterPixelWithinTolerance`. -/
def Obligations.ButterFiltersTheGrayPlane : Prop :=
  ∀ (s : State) (rest : List Turn) (px : Nat → Nat → Nat → Nat),
    s.resetAsserted = false → Issuable .butter s → SourceIs s px →
    ∃ g : List (List Nat), (g.length = rows s ∧ (∀ row ∈ g, row.length = cols s) ∧
      ∀ r c, r < rows s → c < cols s → (planeAt g r c : ℤ) = idealLuma (px r c 0) (px r c 1) (px r c 2)) ∧
    RunsTo .butter s rest fun r c _ v =>
      v = freqPixel s.params 0x04#8 g
        ⟨s.regs.gammaG.toNat, s.regs.bwCut.toNat, s.regs.bwOrd.toNat, s.regs.wnK.toNat, s.regs.wnNp.toNat⟩
        (rootOrder (rows s) (cols s))
        (idft2 (rows s) (cols s)
          (butterSpectrum (rows s) (cols s) g s.regs.bwCut.toNat s.regs.bwOrd.toNat) r c) r c

/-- R125, R128 (b) with R91: WIENER runs, and its destination is one plane written to all three channels, of the Wiener
spectrum of the gray plane. What that pixel is in real numbers is `WienerPixelWithinTolerance`. -/
def Obligations.WienerFiltersTheGrayPlane : Prop :=
  ∀ (s : State) (rest : List Turn) (px : Nat → Nat → Nat → Nat),
    s.resetAsserted = false → Issuable .wiener s → SourceIs s px →
    ∃ g : List (List Nat), (g.length = rows s ∧ (∀ row ∈ g, row.length = cols s) ∧
      ∀ r c, r < rows s → c < cols s → (planeAt g r c : ℤ) = idealLuma (px r c 0) (px r c 1) (px r c 2)) ∧
    RunsTo .wiener s rest fun r c _ v =>
      v = freqPixel s.params 0x05#8 g
        ⟨s.regs.gammaG.toNat, s.regs.bwCut.toNat, s.regs.bwOrd.toNat, s.regs.wnK.toNat, s.regs.wnNp.toNat⟩
        (rootOrder (rows s) (cols s))
        (idft2 (rows s) (cols s)
          (wienerSpectrum (rows s) (cols s) g s.regs.wnK.toNat s.regs.wnNp.toNat) r c) r c

/-- R126 with R91: MEDIAN runs, and each destination pixel v is the 13th smallest of the 25 window values of its channel,
coordinates clamped to the image: v is one of them, at most 12 are below it and at most 12 above it. -/
def Obligations.MedianOfTheReplicatedWindow : Prop :=
  ∀ (s : State) (rest : List Turn) (px : Nat → Nat → Nat → Nat),
    s.resetAsserted = false → Issuable .median s → SourceIs s px →
    RunsTo .median s rest fun r c ch v =>
      let at' : Nat × Nat → Nat := fun de =>
        px (min (rows s - 1) (r + de.1 - 2)) (min (cols s - 1) (c + de.2 - 2)) ch
      (∃ de ∈ Finset.range 5 ×ˢ Finset.range 5, at' de = v) ∧
      ((Finset.range 5 ×ˢ Finset.range 5).filter fun de => at' de < v).card ≤ 12 ∧
      ((Finset.range 5 ×ˢ Finset.range 5).filter fun de => v < at' de).card ≤ 12

/-- R44, U4: a command whose source extent holds an unspecified byte runs too, and leaves every destination byte
unspecified. -/
def Obligations.UnspecifiedSourceMakesDestinationUnspecified : Prop :=
  ∀ (op : ImageOp) (s : State) (rest : List Turn) (a : Nat),
    s.resetAsserted = false → Issuable op s →
    s.regs.srcBase.toNat ≤ a → a < s.regs.srcBase.toNat + imageSize s → Memory.read s.pmem a = none →
    exec (imageInstr op) s = .next (issued op s) ∧
      ∃ u, step { issued op s with turns := .core :: rest } = .next u ∧ Completed op s rest u ∧
        ∀ b, s.regs.dstBase.toNat ≤ b → b < s.regs.dstBase.toNat + imageSize s → Memory.read u.pmem b = none

/-- The next turn is the core's: its own in the list, or the host has nothing left to do (log entry 1). -/
def Sys2Proof.Machine.coreMoves (s : State) : Prop := s.turns = [] ∨ ∃ rest, s.turns = .core :: rest

/-- R61, R85, R98, R99, R154: the bytes a completion writes depend only on the record, the source bytes and the parameters of
the implementation: two states that agree on these, and on nothing else (register fields and the accesses still waiting
among it), complete with the same destination bytes. -/
def Obligations.ResultDependsOnSourceAndSnapshotOnly : Prop :=
  ∀ (s t : State) (f : Inflight), s.Inv → t.Inv → s.params = t.params →
    s.inflight = some f → t.inflight = some f → coreMoves s → coreMoves t →
    s.resetAsserted = false → t.resetAsserted = false →
    (∀ a, f.src.base ≤ a → a < f.src.base + f.src.size → Memory.read s.pmem a = Memory.read t.pmem a) →
    ∃ s' t', step s = .next s' ∧ step t = .next t' ∧
      ∀ b, f.dst.base ≤ b → b < f.dst.base + f.dst.size → Memory.read s'.pmem b = Memory.read t'.pmem b

/-! ### The numeric rules behind the results -/

/-- R104, R105: the integer count is the rounded real power: gammaLUT(G)[i] = clamp(rne(255·(i/255)^(256/G)), 0, 255). -/
def Obligations.GammaLutIsTheRoundedPower : Prop :=
  ∀ g i : Nat, 1 ≤ g → i ≤ 255 → (gammaLut g i : ℤ) = idealGammaLut g i

/-- R106 (a) to (d): the identity at G = 256, non-decreasing, fixed ends, brightening above and darkening below 256. -/
def Obligations.GammaLutProperties : Prop :=
  (∀ i, i ≤ 255 → gammaLut 256 i = i) ∧
  (∀ g i j, i ≤ j → j ≤ 255 → gammaLut g i ≤ gammaLut g j) ∧
  (∀ g, 1 ≤ g → gammaLut g 0 = 0 ∧ gammaLut g 255 = 255) ∧
  (∀ g i, 256 < g → i ≤ 255 → i ≤ gammaLut g i) ∧
  (∀ g i, 1 ≤ g → g < 256 → i ≤ 255 → gammaLut g i ≤ i)

/-- R101, corner cases: on a non-degenerate channel the remap takes the least value to 0 and the greatest to 255, keeps
the order, and stays in 0..255. -/
def Obligations.StretchSpansTheFullRange : Prop :=
  ∀ mn mx : Nat, mn < mx → mx ≤ 255 →
    stretch mn mx mn = 0 ∧ stretch mn mx mx = 255 ∧
    ∀ a b, mn ≤ a → a ≤ b → b ≤ mx → stretch mn mx a ≤ stretch mn mx b ∧ stretch mn mx b ≤ 255

/-- R111 (a), (c) and R107: on a plane's values the equalization LUT is the identity where the histogram is flat (every
value 0..255 m ≥ 1 times), the identity on a constant plane, and non-decreasing. -/
def Obligations.EqualizationLutProperties : Prop :=
  (∀ (ys : List Nat) (m : Nat), 1 ≤ m → (∀ y ∈ ys, y ≤ 255) → (∀ v, v ≤ 255 → ys.count v = m) →
    ∀ v, v ≤ 255 → heqLut ys v = v) ∧
  (∀ (ys : List Nat) (y : Nat), ys ≠ [] → y ≤ 255 → (∀ z ∈ ys, z = y) → heqLut ys y = y) ∧
  (∀ (ys : List Nat), (∀ y ∈ ys, y ≤ 255) → ∀ a b, a ∈ ys → b ∈ ys → a ≤ b → heqLut ys a ≤ heqLut ys b)

/-- R109, R110, R113: luma, gray value, chroma and the way back are the rules' formulas, for every pixel; Ideal.lean writes
them out (the weights 1868, 9617, 4899; 11682, 9241; 29049, −11698, −5636, 22987; the floor of the quotient by 2^14; the
clamp to 0..255). So a gray pixel B = G = R = v has luma and gray value v and chroma 128, and comes back as (y, y, y) for
the luma y it is given (R108). -/
def Obligations.GrayPixelsStayGray : Prop :=
  (∀ b g r, b ≤ 255 → g ≤ 255 → r ≤ 255 →
    (luma b g r : ℤ) = idealLuma b g r ∧ (toGray b g r : ℤ) = idealLuma b g r ∧
    (chromaR b g r : ℤ) = idealCr b g r ∧ (chromaB b g r : ℤ) = idealCb b g r) ∧
  (∀ y cr cb ch, y ≤ 255 → cr ≤ 255 → cb ≤ 255 → ch < 3 → (fromYCrCb y cr cb ch : ℤ) = idealFromYCrCb y cr cb ch) ∧
  (∀ v, v ≤ 255 → luma v v v = v ∧ toGray v v v = v ∧ chromaR v v v = 128 ∧ chromaB v v v = 128) ∧
  (∀ y ch, y ≤ 255 → ch < 3 → fromYCrCb y 128 128 ch = y)

/-- R128 (e): MEDIAN is monotone: raising source pixels lowers no destination pixel. -/
def Obligations.MedianIsMonotone : Prop :=
  ∀ i j : SrcImage, i.h = j.h → i.w = j.w → i.c = j.c → (∀ k, i.px.getD k 0 ≤ j.px.getD k 0) →
    ∀ k, (resultMedian i).getD k 0 ≤ (resultMedian j).getD k 0

/-- R96: every result is made of pixels 0..255, one for each byte of the destination extent, so that the store loses
nothing. -/
def Obligations.ResultsAreWholePixels : Prop :=
  ∀ (p : Params) (f : Inflight) (m : Memory) (i : SrcImage), recordOk p f → sourceImage m f = some i →
    (resultPixels p f i).length = f.dst.size ∧ ∀ v ∈ resultPixels p f i, v ≤ 255

/-- The decision at the heart of the frequency-domain units (log entry 10): for a combination of the powers of
ζ = e^{2πi/n} that is a real number, `Cyc.nonneg` answers whether it is ≥ 0, exactly. -/
def Obligations.CyclotomicSignIsExact : Prop :=
  ∀ (n : Nat) (a : Cyc), 0 < n → a.length = n → (Cyc.value n a).im = 0 →
    (Cyc.nonneg n a = true ↔ 0 ≤ (Cyc.value n a).re)

/-- R115: fft_2d_engine computes the rule's sum, exactly: the value of its output at ζ = e^{2πi/lcm(H,W)} is
Σ_r Σ_c g[r][c]·e^{−2πi·(u·r/H + v·c/W)}. -/
def Obligations.ForwardTransformIsTheRuleSum : Prop :=
  ∀ (h w u v : Nat) (g : List (List Nat)), 1 ≤ h → 1 ≤ w →
    Cyc.value (rootOrder h w) (dft2 h w g u v) = idealDft2 h w (fun r c => (planeAt g r c : ℂ)) u v

/-- R116: "This makes IDFT2(DFT2(g)) = g exactly", for the machine's two engines: the quotient that comes back has the
pixel's value. -/
def Obligations.InverseTransformRestoresThePlane : Prop :=
  ∀ (h w r c : Nat) (g : List (List Nat)), r < h → c < w →
    let n := rootOrder h w
    let y := idft2 h w
      ((List.range h).map fun u => (List.range w).map fun v => Frac.ofCyc n (dft2 h w g u v)) r c
    Cyc.value n y.den ≠ 0 ∧ Cyc.value n y.num / Cyc.value n y.den = (planeAt g r c : ℂ)

/-- R118: frequency_multiplier's weight is 1 / (1 + (D/cutoff)^(2·order)), D the distance to the centre (H//2, W//2). -/
def Obligations.MaskIsTheButterworthWeight : Prop :=
  ∀ h w cut ord p q : Nat, 1 ≤ h → 1 ≤ w → 1 ≤ cut → 1 ≤ ord →
    let m := butterMask h w cut ord p q
    let n := rootOrder h w
    Cyc.value n m.den ≠ 0 ∧ Cyc.value n m.num / Cyc.value n m.den = (idealMask h w cut ord p q : ℂ)

/-- R120, R121: wiener_mask_generator's factor is conj(Hb) / (|Hb|² + NP/2^24), Hb the spectrum of the k×k box of 1/k²; it
is defined everywhere, also where Hb = 0. -/
def Obligations.WienerFactorIsTheRuleQuotient : Prop :=
  ∀ h w k np u v : Nat, 1 ≤ k → k ≤ min h w → 1 ≤ np →
    let m := wienerFactor h w k np u v
    let n := rootOrder h w
    Cyc.value n m.den ≠ 0 ∧ Cyc.value n m.num / Cyc.value n m.den = idealWienerFactor h w k np u v

/-- R7: FREQ_TOL is "a real number ≥ 0", any of them: for every real t ≥ 0 and every MAX_DIM there are parameters, with the
other ones as they were, that give it. The enclosure is the model's form of a real number (log entry 4). -/
def Obligations.EveryRealToleranceIsGiven : Prop :=
  ∀ (p : Params) (t : ℝ), p.legal = true → 0 ≤ t →
    ∃ below above den : Nat,
      let q := { p with freqTolBelow := below, freqTolAbove := above, freqTolDen := den }
      q.legal = true ∧ givesTolerance q t

/-- R113 to R119, R122, R123 for BUTTER: the output pixel lies in [quant(x − FREQ_TOL), quant(x + FREQ_TOL)], x the ideal
real value |IDFT2(F·BW)|, for every image, cutoff and order that R97 admits: in the range of the parameters' enclosure, and
in R123's own range for every real FREQ_TOL that the parameters give. -/
def Obligations.ButterPixelWithinTolerance : Prop :=
  ∀ (p : Params) (h w cut ord : Nat) (g : List (List Nat)) (par : CommandPar) (r c : Nat),
    p.legal = true → 1 ≤ h → 1 ≤ w → 1 ≤ cut → 1 ≤ ord → r < h → c < w →
    let x := idealButter h w (planeAt g) cut ord r c
    let o := freqPixel p 0x04#8 g par (rootOrder h w) (idft2 h w (butterSpectrum h w g cut ord) r c) r c
    (idealQuant (x - freqTolLow p) ≤ o ∧ o ≤ idealQuant (x + freqTolHigh p)) ∧
    ∀ t : ℝ, givesTolerance p t → h ≤ p.maxDim → w ≤ p.maxDim → cut ≤ 65535 → ord ≤ 255 →
      (∀ i j, planeAt g i j ≤ 255) → idealQuant (x - t) ≤ o ∧ o ≤ idealQuant (x + t)

/-- R113 to R116, R119 to R123 for WIENER: the output pixel lies in [quant(x − FREQ_TOL), quant(x + FREQ_TOL)], x the
ideal real value |IDFT2(Wf·F)|, for every image, kernel side and noise power that R97 admits: in the range of the
parameters' enclosure, and in R123's own range for every real FREQ_TOL that the parameters give. -/
def Obligations.WienerPixelWithinTolerance : Prop :=
  ∀ (p : Params) (h w k np : Nat) (g : List (List Nat)) (par : CommandPar) (r c : Nat),
    p.legal = true → 1 ≤ h → 1 ≤ w → 1 ≤ k → k ≤ min h w → 1 ≤ np → r < h → c < w →
    let x := idealWiener h w (planeAt g) k np r c
    let o := freqPixel p 0x05#8 g par (rootOrder h w) (idft2 h w (wienerSpectrum h w g k np) r c) r c
    (idealQuant (x - freqTolLow p) ≤ o ∧ o ≤ idealQuant (x + freqTolHigh p)) ∧
    ∀ t : ℝ, givesTolerance p t → h ≤ p.maxDim → w ≤ p.maxDim → k ≤ 255 → np < 2 ^ 32 →
      (∀ i j, planeAt g i j ≤ 255) → idealQuant (x - t) ≤ o ∧ o ≤ idealQuant (x + t)

/-! ### Invariants and whole-machine rules -/

/-- The invariant of `State.Inv` is kept by every step of every agent: R23 and R40 (BUSY and the record), R38 (PMEM
offsets), R89 (a record passed its checks), R129 (codes 0..6), R7 (the parameters), and the memory's canonical form. -/
def Obligations.EveryStepKeepsTheInvariant : Prop :=
  ∀ s s' : State, s.Inv → step s = .next s' → s'.Inv

/-- The invariant holds right after reset, for every legal choice of the parameters (R7, R43). -/
def Obligations.ResetHoldsTheInvariant : Prop :=
  (∀ p : Params, p.legal = true → (State.resetWith p).Inv) ∧ State.reset.Inv

/-- R135, R136 and the tables' totality: a step never refuses, and stops with a fault only on a host access outside the
core's window (the model's own stop, log entry 7). -/
def Obligations.OnlyAnAddressOutsideTheWindowStops : Prop :=
  ∀ s : State,
    (∃ s', step s = .next s') ∨
    (step s = .fault .outsideWindow ∧ ∃ a rest, s.turns = .host a :: rest ∧
      match a with
      | .read addr _ => addr.toNat / 2 ^ 25 ≠ s.params.baseWindow.toNat
      | .write addr _ => addr.toNat / 2 ^ 25 ≠ s.params.baseWindow.toNat)

/-- R7, R20: the launch parameters never change. -/
def Obligations.ParametersNeverChange : Prop :=
  ∀ s s' : State, step s = .next s' → s'.params = s.params

/-- R40, R61, R62, R92, R154: while a command is in flight, a step that leaves one in flight leaves the same record and
every byte of pixel memory: no host access changes the command's operands or its source. -/
def Obligations.InputsFixedWhileInFlight : Prop :=
  ∀ (s s' : State) (f f' : Inflight), s.Inv → s.inflight = some f → step s = .next s' → s'.inflight = some f' →
    f' = f ∧ s'.pmem = s.pmem

/-- R23: BUSY falls only at the command's completion (then LAST_OP is its opcode, ERR_CODE 0 and DONE 1) or at a reset (then
every register has its reset value). -/
def Obligations.BusyFallsOnlyByCompletionOrReset : Prop :=
  ∀ (s s' : State) (f : Inflight), s.Inv → s.inflight = some f → step s = .next s' → s'.regs.busy = false →
    s'.inflight = none ∧
    (s'.regs = { s.regs with busy := false, done := true, errCode := 0#4, lastOp := f.op.opcode } ∨
      s'.regs = Regs.reset)

/-- R24: DONE falls only by a host write of STATUS with bit 1 = 1 or by a reset. -/
def Obligations.DoneFallsOnlyByAcknowledgeOrReset : Prop :=
  ∀ s s' : State, step s = .next s' → s.regs.done = true → s'.regs.done = false →
    s'.regs = Regs.reset ∨
    ∃ v rest, s.turns = .host (.write (s.params.baseWindow ++ 0x00C#25) (.b32 v)) :: rest ∧ v.getLsbD 1 = true

/-- R26, R152, R153: OVR rises only by a CMD write while BUSY = 1, and HAZ only by a PMEM write while BUSY = 1: one in the
core's window whose bytes all lie in 0x100_0000 .. 0x100_0000 + PMEM_BYTES − 1 (R46). A host that waits sees neither. -/
def Obligations.HazardsRecordOnlyEarlyAccesses : Prop :=
  ∀ s s' : State, step s = .next s' →
    (s.regs.ovr = false → s'.regs.ovr = true → s.regs.busy = true ∧
      ∃ w rest, s.turns = .host (.write (s.params.baseWindow ++ 0x010#25) (.b32 w)) :: rest) ∧
    (s.regs.haz = false → s'.regs.haz = true → s.regs.busy = true ∧
      ∃ addr d rest, s.turns = .host (.write addr d) :: rest ∧ addr.toNat / 2 ^ 25 = s.params.baseWindow.toNat ∧
        0x1000000 ≤ addr.toNat % 2 ^ 25 ∧ addr.toNat % 2 ^ 25 + d.width.bytes ≤ 0x1000000 + s.params.pmemBytes)

/-- The turn lets the command in flight be: a core turn, a host access inside the window that is no soft reset, a 32-bit
write to CTRL with SRST = 1 (R146), or a release of a reset input that is not asserted, which does nothing (log entry 8,
DESIGN CHOICE). -/
def Sys2Proof.Machine.Turn.harmless (p : Params) : Turn → Prop
  | .core => True
  | .host (.read addr _) => addr.toNat / 2 ^ 25 = p.baseWindow.toNat
  | .host (.write addr d) => addr.toNat / 2 ^ 25 = p.baseWindow.toNat ∧
    ∀ v : Word, d = .b32 v → addr.toNat % 2 ^ 25 = 0x008 → v.getLsbD 1 = false
  | .assertReset => False
  | .releaseReset => True

/-- R90: however many host accesses wait, the command in flight completes: after at most one step more than there are
turns, no later than the host has nothing left to do, the core has taken its step, with ERR_CODE 0 and the command's opcode
in LAST_OP. The turn list is the model's (log entry 1); that a release of the reset input without an assertion lets the
command be is log entry 8 (DESIGN CHOICE). -/
def Obligations.CommandInFlightCompletes : Prop :=
  ∀ (s : State) (f : Inflight), s.Inv → s.inflight = some f → s.resetAsserted = false →
    (∀ t ∈ s.turns, t.harmless s.params) →
    ∃ (k : Nat) (t : State), k ≤ s.turns.length + 1 ∧ core.run k s = .next t ∧ t.inflight = none ∧
      t.regs.busy = false ∧ t.regs.done = true ∧ t.regs.errCode = 0#4 ∧ t.regs.lastOp = f.op.opcode

/-! ### Reset -/

/-- R17, R43: what each register reads right after reset, and the value of each register field, which every reset leaves
(`Regs.reset`). -/
def Obligations.ResetRegisterValues : Prop :=
  ∀ p : Params,
    regRead (State.resetWith p) .id = 0x4C435231#32 ∧
    regRead (State.resetWith p) .ctrl = 0#32 ∧ regRead (State.resetWith p) .status = 0#32 ∧
    regRead (State.resetWith p) .cmd = 0#32 ∧ regRead (State.resetWith p) .srcBase = 0#32 ∧
    regRead (State.resetWith p) .dstBase = 0#32 ∧ regRead (State.resetWith p) .dim = 0#32 ∧
    regRead (State.resetWith p) .fmt = 3#32 ∧ regRead (State.resetWith p) .gamma = 0x180#32 ∧
    regRead (State.resetWith p) .bwCutoff = 30#32 ∧ regRead (State.resetWith p) .bwOrder = 2#32 ∧
    regRead (State.resetWith p) .wnKsize = 5#32 ∧ regRead (State.resetWith p) .wnNoise = 0x00028F5C#32 ∧
    (State.resetWith p).regs = Regs.reset ∧
    Regs.reset =
      { ie := false, busy := false, done := false, ovr := false, haz := false, errCode := 0#4, lastOp := 0#8,
        srcBase := 0#24, dstBase := 0#24, dimH := 0#16, dimW := 0#16, fmtCh := 3#3, gammaG := 0x180#16, bwCut := 30#16,
        bwOrd := 2#8, wnK := 5#8, wnNp := 0x00028F5C#32 } ∧
    (State.resetWith p).irq = false ∧ (State.resetWith p).inflight = none ∧
    ∀ a, Memory.read (State.resetWith p).pmem a = none

/-- R21, R146, R147: a CTRL write with bit 1 = 1, BUSY or not: every register field takes its reset value (IE too,
whatever bit 0 says), the command in flight is aborted, its destination bytes become unspecified, every other byte is kept. -/
def Obligations.SoftResetKeepsPixelMemory : Prop :=
  ∀ (s : State) (v : Word) (rest : List Turn),
    s.turns = .host (.write (s.params.baseWindow ++ 0x008#25) (.b32 v)) :: rest → s.resetAsserted = false →
    v.getLsbD 1 = true →
    ∃ u, step s = .next u ∧ u.regs = Regs.reset ∧ u.inflight = none ∧ u.params = s.params ∧ u.turns = rest ∧
      u.resetAsserted = false ∧ u.resp = some .done ∧
      ∀ a, Memory.read u.pmem a =
        if ∃ f, s.inflight = some f ∧ f.dst.base ≤ a ∧ a < f.dst.base + f.dst.size then none
        else Memory.read s.pmem a

/-- R145: the reset input is asserted and then released. The assertion is recorded, and from it on the input is asserted;
that it keeps the rest of the state until the release is log entry 8 (DESIGN CHOICE), the new epoch log entry 5. On the
release of the asserted input every register field takes its reset value, nothing is in flight and every PMEM byte is
unspecified; a release without an assertion does nothing (log entry 8). -/
def Obligations.HardResetForgetsPixelMemory : Prop :=
  ∀ (s : State) (rest : List Turn),
    (s.turns = .assertReset :: rest →
      step s = .next { s with turns := rest, epoch := s.epoch + 1, resetAsserted := true }) ∧
    (s.turns = .releaseReset :: rest → s.resetAsserted = true →
      ∃ u, step s = .next u ∧ u.regs = Regs.reset ∧ u.inflight = none ∧ u.params = s.params ∧ u.turns = rest ∧
        u.resetAsserted = false ∧ u.resp = s.resp ∧ ∀ a, Memory.read u.pmem a = none) ∧
    (s.turns = .releaseReset :: rest → s.resetAsserted = false → step s = .next { s with turns := rest })

/-- R145, U5: while reset is asserted a host access in the window changes no register, no byte and no record: a write is
answered and has no effect, a read returns a value of its width, whatever value. R134: nor does the core complete, at its
own turn or when no turn waits, with a command in flight too (log entry 8). That the bus answers the ignored write as any
other is log entry 16, and the turns and free-value counters are the model's (log entries 1, 5). -/
def Obligations.AccessesIgnoredWhileResetAsserted : Prop :=
  ∀ (s : State) (rest : List Turn), s.resetAsserted = true →
    (∀ a, s.turns = .host a :: rest →
      (match a with
        | .read addr _ => addr.toNat / 2 ^ 25 = s.params.baseWindow.toNat
        | .write addr _ => addr.toNat / 2 ^ 25 = s.params.baseWindow.toNat) →
      match a with
      | .read _ w => ∃ d : Datum, d.width = w ∧
          step s = .next { s with turns := rest, draws := s.draws + 1, resp := some (.data d) }
      | .write _ _ => step s = .next { s with turns := rest, epoch := s.epoch + 1, resp := some .done }) ∧
    (s.turns = .core :: rest → step s = .next { s with turns := rest }) ∧
    (s.turns = [] → step s = .next s)

/-! ### Registers -/

/-- The offset column of R17's table. -/
def Sys2Proof.Machine.tabledOffset : RegName → BitVec 25
  | .id       => 0x000#25
  | .caps     => 0x004#25
  | .ctrl     => 0x008#25
  | .status   => 0x00C#25
  | .cmd      => 0x010#25
  | .srcBase  => 0x014#25
  | .dstBase  => 0x018#25
  | .dim      => 0x01C#25
  | .fmt      => 0x020#25
  | .gamma    => 0x024#25
  | .bwCutoff => 0x028#25
  | .bwOrder  => 0x02C#25
  | .wnKsize  => 0x030#25
  | .wnNoise  => 0x034#25

/-- A host write of `v` to a parameter register with the fields `g` before it (R28 to R36): the fields after it, and the word
that the register then reads. None for the other five registers. -/
def Sys2Proof.Machine.storedAs (v : Word) (g : Regs) : RegName → Option (Regs × Word)
  | .srcBase  => some ({ g with srcBase := BitVec.ofNat 24 v.toNat }, v &&& 0x00FFFFFF#32)
  | .dstBase  => some ({ g with dstBase := BitVec.ofNat 24 v.toNat }, v &&& 0x00FFFFFF#32)
  | .dim      => some ({ g with dimH := BitVec.ofNat 16 (v.toNat / 65536), dimW := BitVec.ofNat 16 v.toNat }, v)
  | .fmt      => some ({ g with fmtCh := BitVec.ofNat 3 v.toNat }, v &&& 0x00000007#32)
  | .gamma    => some ({ g with gammaG := BitVec.ofNat 16 v.toNat }, v &&& 0x0000FFFF#32)
  | .bwCutoff => some ({ g with bwCut := BitVec.ofNat 16 v.toNat }, v &&& 0x0000FFFF#32)
  | .bwOrder  => some ({ g with bwOrd := BitVec.ofNat 8 v.toNat }, v &&& 0x000000FF#32)
  | .wnKsize  => some ({ g with wnK := BitVec.ofNat 8 v.toNat }, v &&& 0x000000FF#32)
  | .wnNoise  => some ({ g with wnNp := v }, v)
  | .id       => none
  | .caps     => none
  | .ctrl     => none
  | .status   => none
  | .cmd      => none

/-- The number that a read of a parameter register returns, from the register's own fields (R28 to R36). None for the other
five registers. -/
def Sys2Proof.Machine.fieldWord (g : Regs) : RegName → Option Nat
  | .srcBase  => some g.srcBase.toNat
  | .dstBase  => some g.dstBase.toNat
  | .dim      => some (g.dimH.toNat * 65536 + g.dimW.toNat)
  | .fmt      => some g.fmtCh.toNat
  | .gamma    => some g.gammaG.toNat
  | .bwCutoff => some g.bwCut.toNat
  | .bwOrder  => some g.bwOrd.toNat
  | .wnKsize  => some g.wnK.toNat
  | .wnNoise  => some g.wnNp.toNat
  | .id       => none
  | .caps     => none
  | .ctrl     => none
  | .status   => none
  | .cmd      => none

/-- R17, R18, R28 to R36, R58: a parameter register written by the host at its offset of R17 stores its own named fields and
no other register field, BUSY or not, and reads back as its stored bits at the very next access; every other register reads
as before, and pixel memory and the record in flight are untouched. And in every state a host read at that offset returns
the register's fields at their bits. -/
def Obligations.ParameterRegistersReadBack : Prop :=
  (∀ (s : State) (r : RegName) (v x : Word) (g : Regs) (rest : List Turn), storedAs v s.regs r = some (g, x) →
    s.turns = .host (.write (s.params.baseWindow ++ tabledOffset r) (.b32 v)) ::
      .host (.read (s.params.baseWindow ++ tabledOffset r) .w32) :: rest →
    s.resetAsserted = false →
    ∃ t u, step s = .next t ∧ t.regs = g ∧ step t = .next u ∧ u.regs = g ∧ u.resp = some (.data (.b32 x)) ∧
      u.turns = rest ∧ (∀ q, q ≠ r → regRead u q = regRead s q) ∧ u.pmem = s.pmem ∧ u.inflight = s.inflight ∧
      u.params = s.params) ∧
  (∀ (s : State) (r : RegName) (n : Nat) (rest : List Turn), fieldWord s.regs r = some n →
    s.turns = .host (.read (s.params.baseWindow ++ tabledOffset r) .w32) :: rest → s.resetAsserted = false →
    ∃ (u : State) (w : Word), step s = .next u ∧ u.resp = some (.data (.b32 w)) ∧ w.toNat = n)

/-- R22: the STATUS word a host reads: BUSY bit 0, DONE 1, ERR 2 (ERR_CODE ≠ 0, R25), OVR 4, HAZ 5, ERR_CODE 11:8,
LAST_OP 23:16, and every other bit 0. -/
def Obligations.StatusWordLayout : Prop :=
  ∀ (s : State) (rest : List Turn),
    s.turns = .host (.read (s.params.baseWindow ++ 0x00C#25) .w32) :: rest → s.resetAsserted = false →
    ∃ (u : State) (w : Word), step s = .next u ∧ u.resp = some (.data (.b32 w)) ∧
      w.toNat = s.regs.busy.toNat + 2 * s.regs.done.toNat + 4 * (s.regs.errCode != 0#4).toNat +
        16 * s.regs.ovr.toNat + 32 * s.regs.haz.toNat + 256 * s.regs.errCode.toNat + 65536 * s.regs.lastOp.toNat

/-- R22, R24, R26: a host write of STATUS clears DONE where bit 1 is 1, OVR where bit 4 is 1, HAZ where bit 5 is 1, and
changes no other bit and nothing else. The turns, the epoch and the answer are the model's (log entries 1, 5, 11). -/
def Obligations.StatusWriteClearsOnlyItsBits : Prop :=
  ∀ (s : State) (v : Word) (rest : List Turn),
    s.turns = .host (.write (s.params.baseWindow ++ 0x00C#25) (.b32 v)) :: rest → s.resetAsserted = false →
    step s = .next
      { s with
        turns := rest, epoch := s.epoch + 1, resp := some .done
        regs := { s.regs with
          done := if v.toNat / 2 % 2 = 1 then false else s.regs.done
          ovr := if v.toNat / 16 % 2 = 1 then false else s.regs.ovr
          haz := if v.toNat / 32 % 2 = 1 then false else s.regs.haz } }

/-- R19, R20: ID, at offset 0x000, reads 0x4C43_5231 and CAPS, at offset 0x004, reads PMEM_BYTES/1024 in [31:16] and MAX_DIM in [15:0], for legal parameters;
writing either changes nothing, and the bus answers the write as any other (log entry 16, DEDUCED). -/
def Obligations.IdAndCapsAreConstant : Prop :=
  ∀ (s : State) (r : RegName) (rest : List Turn), (r = .id ∨ r = .caps) → s.params.legal = true →
    s.resetAsserted = false →
    (s.turns = .host (.read (s.params.baseWindow ++ tabledOffset r) .w32) :: rest →
      ∃ (u : State) (w : Word), step s = .next u ∧ u.resp = some (.data (.b32 w)) ∧
        w.toNat = if r = .id then 0x4C435231 else s.params.pmemBytes / 1024 * 65536 + s.params.maxDim) ∧
    (∀ v : Word, s.turns = .host (.write (s.params.baseWindow ++ tabledOffset r) (.b32 v)) :: rest →
      step s = .next { s with turns := rest, epoch := s.epoch + 1, resp := some .done })

/-- R18: a 32-bit access at an aligned offset of the register window that R17 does not list (0x038..0xFFC): a read returns 0,
a write has no effect, and the bus answers it as any other (log entry 16, DEDUCED). -/
def Obligations.UnlistedOffsetsReadZero : Prop :=
  ∀ (s : State) (off : BitVec 25) (rest : List Turn),
    0x038 ≤ off.toNat → off.toNat ≤ 0xFFC → off.toNat % 4 = 0 → s.resetAsserted = false →
    (s.turns = .host (.read (s.params.baseWindow ++ off) .w32) :: rest →
      ∃ u, step s = .next u ∧ u.resp = some (.data (.b32 0#32)) ∧ u.regs = s.regs ∧ u.pmem = s.pmem ∧
        u.inflight = s.inflight) ∧
    (∀ v : Word, s.turns = .host (.write (s.params.baseWindow ++ off) (.b32 v)) :: rest →
      step s = .next { s with turns := rest, epoch := s.epoch + 1, resp := some .done })

/-- R42, R132, R133: irq is CTRL.IE ∧ STATUS.DONE: writing IE = 1 while DONE = 1 raises it at once, writing IE = 0 drops it
and leaves DONE, and clearing DONE drops it. -/
def Obligations.InterruptFollowsEnableAndDone : Prop :=
  ∀ (s : State) (v : Word) (rest : List Turn), s.resetAsserted = false →
    (s.turns = .host (.write (s.params.baseWindow ++ 0x008#25) (.b32 v)) :: rest → v.getLsbD 1 = false →
      ∃ u, step s = .next u ∧ u.irq = (v.getLsbD 0 && s.regs.done) ∧ u.regs = { s.regs with ie := v.getLsbD 0 } ∧
        u.pmem = s.pmem ∧ u.inflight = s.inflight) ∧
    (s.turns = .host (.write (s.params.baseWindow ++ 0x00C#25) (.b32 v)) :: rest → v.getLsbD 1 = true →
      ∃ u, step s = .next u ∧ u.irq = false)

/-- R18, R21, R27: a host read of CTRL returns IE in bit 0, and SRST and the reserved bits as 0, in every state; right after
a write of CTRL with SRST = 0 it returns the written bit 0, right after one with SRST = 1 it returns 0; and a host read of
CMD returns 0 in every state. -/
def Obligations.CtrlAndCmdRead : Prop :=
  ∀ (s : State) (rest : List Turn), s.resetAsserted = false →
    (s.turns = .host (.read (s.params.baseWindow ++ 0x008#25) .w32) :: rest →
      ∃ (u : State) (w : Word), step s = .next u ∧ u.resp = some (.data (.b32 w)) ∧ w.toNat = s.regs.ie.toNat) ∧
    (∀ v : Word,
      s.turns = .host (.write (s.params.baseWindow ++ 0x008#25) (.b32 v)) ::
        .host (.read (s.params.baseWindow ++ 0x008#25) .w32) :: rest →
      ∃ (t u : State) (w : Word), step s = .next t ∧ step t = .next u ∧ u.resp = some (.data (.b32 w)) ∧
        w.toNat = if v.toNat / 2 % 2 = 1 then 0 else v.toNat % 2) ∧
    (s.turns = .host (.read (s.params.baseWindow ++ 0x010#25) .w32) :: rest →
      ∃ u, step s = .next u ∧ u.resp = some (.data (.b32 0#32)))

/-! ### The bus and pixel memory -/

/-- The access is a bus error (R136): a register access not 32 bits wide or not 4-byte aligned (R48), a reserved range
(R46), a misaligned PMEM access, or one past the end (R49), at window offset `off`, `n` bytes wide. -/
def Sys2Proof.Machine.isBusError (p : Params) (off n : Nat) : Prop :=
  (off < 0x1000 ∧ (n ≠ 4 ∨ off % 4 ≠ 0)) ∨
  (0x1000 ≤ off ∧ off < 0x1000000) ∨
  (0x1000000 ≤ off ∧ ((off - 0x1000000) % n ≠ 0 ∨ 0x1000000 + p.pmemBytes < off + n))

/-- R46, R48, R49, R136: a bus error changes no register, no PMEM byte and no STATUS bit, returns no data, and gets the bus's
error response. That the machine goes on to a next state with the response `fault` is log entry 6 (DEDUCED). -/
def Obligations.BusErrorChangesNothing : Prop :=
  ∀ (s : State) (off : BitVec 25) (a : Access) (rest : List Turn),
    s.turns = .host a :: rest → s.resetAsserted = false →
    (match a with
      | .read addr w => addr = s.params.baseWindow ++ off ∧ isBusError s.params off.toNat w.bytes
      | .write addr d => addr = s.params.baseWindow ++ off ∧ isBusError s.params off.toNat d.width.bytes) →
    ∃ u, step s = .next u ∧ u.resp = some .fault ∧ u.regs = s.regs ∧ u.pmem = s.pmem ∧ u.inflight = s.inflight ∧
      u.params = s.params ∧ u.turns = rest ∧ u.resetAsserted = false

/-- A datum as a number. -/
def Sys2Proof.Machine.datumNat : Datum → Nat
  | .b8 v => v.toNat
  | .b16 v => v.toNat
  | .b32 v => v.toNat

/-- R47, R49, R53: while BUSY = 0 a legal PMEM write of n bytes stores byte k of the value, (v / 2^(8k)) mod 256, at offset
a + k, for each k < n (little-endian), leaves every other byte, and changes no register. -/
def Obligations.PixelWriteStoresLittleEndian : Prop :=
  ∀ (s : State) (a : Nat) (d : Datum) (rest : List Turn),
    s.turns = .host (.write (pmemAddr s.params a) d) :: rest → s.resetAsserted = false → s.params.legal = true →
    s.regs.busy = false → a % d.width.bytes = 0 → a + d.width.bytes ≤ s.params.pmemBytes →
    ∃ u, step s = .next u ∧ u.regs = s.regs ∧ u.inflight = s.inflight ∧ u.resp = some .done ∧
      ∀ x, Memory.read u.pmem x =
        if a ≤ x ∧ x < a + d.width.bytes then some (BitVec.ofNat 8 (datumNat d / 2 ^ (8 * (x - a))))
        else Memory.read s.pmem x

/-- R47, R62: a legal PMEM read returns Σ_{k<n} PMEM[a+k]·2^(8k), when its bytes are specified and none is in the destination
of a command in flight, BUSY or not; it changes no register and no byte. -/
def Obligations.PixelReadReturnsStoredBytes : Prop :=
  ∀ (s : State) (a : Nat) (w : Width) (b : Nat → Byte) (rest : List Turn),
    s.turns = .host (.read (pmemAddr s.params a) w) :: rest → s.resetAsserted = false → s.params.legal = true →
    a % w.bytes = 0 → a + w.bytes ≤ s.params.pmemBytes →
    (∀ k, k < w.bytes → Memory.read s.pmem (a + k) = some (b k)) →
    (∀ f, s.inflight = some f → ∀ k, k < w.bytes → ¬ (f.dst.base ≤ a + k ∧ a + k < f.dst.base + f.dst.size)) →
    ∃ u d, step s = .next u ∧ u.resp = some (.data d) ∧ d.width = w ∧
      datumNat d = ((Finset.range w.bytes).sum fun k => (b k).toNat * 2 ^ (8 * k)) ∧
      u.regs = s.regs ∧ u.pmem = s.pmem ∧ u.inflight = s.inflight

/-- R44, R62: a legal PMEM read of any width answers, whatever its bytes hold: each byte that is specified and outside the
destination of a command in flight is the stored one, and nothing constrains the others; no register, byte or record
changes. -/
def Obligations.EveryLegalReadAnswers : Prop :=
  ∀ (s : State) (a : Nat) (w : Width) (rest : List Turn),
    s.turns = .host (.read (pmemAddr s.params a) w) :: rest → s.resetAsserted = false → s.params.legal = true →
    a % w.bytes = 0 → a + w.bytes ≤ s.params.pmemBytes →
    ∃ u d, step s = .next u ∧ u.resp = some (.data d) ∧ d.width = w ∧ u.regs = s.regs ∧ u.pmem = s.pmem ∧
      u.inflight = s.inflight ∧
      ∀ k, k < w.bytes →
        Memory.read s.pmem (a + k) = none ∨
        (∃ f, s.inflight = some f ∧ f.dst.base ≤ a + k ∧ a + k < f.dst.base + f.dst.size) ∨
        Memory.read s.pmem (a + k) = some (BitVec.ofNat 8 (datumNat d / 2 ^ (8 * k)))

/-- R62: while BUSY = 1 a legal PMEM write, of any byte, is dropped and sets HAZ; nothing else changes. That the bus answers
the dropped write as any other is log entry 16 (DEDUCED). -/
def Obligations.PixelWriteWhileBusyIsDropped : Prop :=
  ∀ (s : State) (a : Nat) (d : Datum) (rest : List Turn),
    s.turns = .host (.write (pmemAddr s.params a) d) :: rest → s.resetAsserted = false → s.params.legal = true →
    s.regs.busy = true → a % d.width.bytes = 0 → a + d.width.bytes ≤ s.params.pmemBytes →
    step s = .next
      { s with turns := rest, epoch := s.epoch + 1, resp := some .done, regs := { s.regs with haz := true } }

/-- The turn is one in which nothing but reads happens: a host read inside the window, or a core turn with nothing in
flight. -/
def Sys2Proof.Machine.Turn.quiet (s : State) : Turn → Prop
  | .core => s.inflight = none
  | .host (.read addr _) => addr.toNat / 2 ^ 25 = s.params.baseWindow.toNat
  | .host (.write _ _) => False
  | .assertReset => False
  | .releaseReset => False

/-- R52: "No read has a side effect": a host read changes no register, byte or record. "Reads of STATUS and of PMEM can be
repeated and return the same value while nothing else happens": the same read made again, with any reads and idle core
turns in between, BUSY or not, returns the same value, unspecified bytes too, unless it reads the destination of a command
in flight, whose bytes are drawn per read (R62). -/
def Obligations.ReadsHaveNoSideEffect : Prop :=
  ∀ (s : State) (addr : BitVec 32) (w : Width) (rest : List Turn) (u : State),
    s.turns = .host (.read addr w) :: rest → s.resetAsserted = false → step s = .next u →
    u.regs = s.regs ∧ u.pmem = s.pmem ∧ u.inflight = s.inflight ∧ u.params = s.params ∧ u.resetAsserted = false ∧
    u.turns = rest ∧
    ∀ (mid rest' : List Turn), rest = mid ++ .host (.read addr w) :: rest' → (∀ t ∈ mid, t.quiet s) →
      (∀ f, s.inflight = some f → ∀ k, k < w.bytes →
        ¬ (0x1000000 + f.dst.base ≤ addr.toNat % 2 ^ 25 + k ∧
          addr.toNat % 2 ^ 25 + k < 0x1000000 + f.dst.base + f.dst.size)) →
      ∃ v, core.run (mid.length + 1) u = .next v ∧ v.resp = u.resp

/-- R144: with nothing in flight and no host access waiting the core is idle: the step changes nothing. -/
def Obligations.IdleCoreDoesNothing : Prop :=
  ∀ s : State, s.turns = [] → s.inflight = none → step s = .next s
end

