-- ==== Sys2Proof/Laws/Memory.lean ====
section
/-! SUPPORT. The pixel memory: read after write, and that every operation keeps the canonical form. -/

namespace Sys2Proof.Machine

@[simp] theorem Memory.read_nil (x : Nat) : Memory.read [] x = none := rfl

/-- A byte reads back as written. -/
@[simp] theorem Memory.read_write_same (a : Nat) (b : Byte) (m : Memory) :
    Memory.read (Memory.write a b m) a = some b := by
  induction m with
  | nil => simp [Memory.write, Memory.read]
  | cons x m ih =>
    obtain ⟨k, v⟩ := x
    simp only [Memory.write]
    split
    · simp [Memory.read]
    · split
      · simp [Memory.read]
      · have : k ≠ a := by omega
        simp [Memory.read, this, ih]

/-- A write leaves every other byte alone. -/
theorem Memory.read_write_other {a x : Nat} (b : Byte) (m : Memory) (h : x ≠ a) :
    Memory.read (Memory.write a b m) x = Memory.read m x := by
  have h' : a ≠ x := Ne.symm h
  induction m with
  | nil => simp [Memory.write, Memory.read, h', Memory.unlisted]
  | cons y m ih =>
    obtain ⟨k, v⟩ := y
    simp only [Memory.write]
    split
    · simp [Memory.read, h']
    · split
      · rename_i hk
        subst hk
        simp [Memory.read, h']
      · simp only [Memory.read]
        split
        · rfl
        · exact ih

theorem Memory.read_write (a x : Nat) (b : Byte) (m : Memory) :
    Memory.read (Memory.write a b m) x = if x = a then some b else Memory.read m x := by
  split
  · rename_i h; subst h; simp
  · rename_i h; exact Memory.read_write_other b m h

/-- A block of bytes reads back as written, and every byte outside it is left alone. -/
theorem Memory.read_writeBytes (a x : Nat) (bs : List Byte) (m : Memory) :
    Memory.read (Memory.writeBytes a bs m) x =
      if a ≤ x ∧ x < a + bs.length then bs[x - a]? else Memory.read m x := by
  induction bs generalizing a m with
  | nil => simp [Memory.writeBytes]
  | cons b bs ih =>
    rw [Memory.writeBytes, ih, Memory.read_write]
    by_cases hx : x = a
    · subst hx
      simp
    · by_cases h : a + 1 ≤ x ∧ x < a + 1 + bs.length
      · obtain ⟨k, hk⟩ : ∃ k, x - a = k + 1 := ⟨x - a - 1, by omega⟩
        have : x - (a + 1) = k := by omega
        have h2 : a ≤ x ∧ x < a + (b :: bs).length := by simp only [List.length_cons]; omega
        rw [if_pos h, if_pos h2, hk, this]
        simp
      · have h2 : ¬ (a ≤ x ∧ x < a + (b :: bs).length) := by simp only [List.length_cons]; omega
        rw [if_neg h, if_neg h2, if_neg hx]

/-- A byte outside a written block reads as before. -/
theorem Memory.read_writeBytes_outside {a x : Nat} (bs : List Byte) (m : Memory)
    (h : ¬ (a ≤ x ∧ x < a + bs.length)) : Memory.read (Memory.writeBytes a bs m) x = Memory.read m x := by
  rw [Memory.read_writeBytes, if_neg h]

/-- A forgotten byte is unspecified; every other byte reads as before. -/
theorem Memory.read_forget (a n x : Nat) (m : Memory) :
    Memory.read (Memory.forget a n m) x = if a ≤ x ∧ x < a + n then none else Memory.read m x := by
  induction m with
  | nil => simp [Memory.forget]
  | cons y m ih =>
    obtain ⟨k, v⟩ := y
    simp only [Memory.forget] at ih
    simp only [Memory.forget, List.filter_cons]
    by_cases hk : k = x
    · subst hk
      by_cases h : a ≤ k ∧ k < a + n
      · simp_all
      · have : (!(decide (a ≤ k) && decide (k < a + n))) = true := by simp; omega
        simp [this, Memory.read, h]
    · split
      · simp only [Memory.read, if_neg hk, ih]
      · simp only [Memory.read, if_neg hk, ih]

/-- What a written memory lists. -/
theorem Memory.mem_write {a : Nat} {b : Byte} {m : Memory} {x : Nat × Byte} (h : x ∈ Memory.write a b m) :
    x = (a, b) ∨ x ∈ m := by
  induction m with
  | nil => simpa [Memory.write] using h
  | cons y m ih =>
    obtain ⟨k, v⟩ := y
    simp only [Memory.write] at h
    split at h
    · simpa using h
    · split at h
      · simp only [List.mem_cons] at h ⊢
        tauto
      · simp only [List.mem_cons] at h ⊢
        rcases h with h | h
        · tauto
        · rcases ih h with h | h <;> tauto

/-- A write keeps the canonical form. -/
theorem Memory.wf_write (a : Nat) (b : Byte) {m : Memory} (h : Memory.wf m) : Memory.wf (Memory.write a b m) := by
  induction m with
  | nil => simp [Memory.write, Memory.wf]
  | cons y m ih =>
    obtain ⟨k, v⟩ := y
    have hm : Memory.wf m := (List.pairwise_cons.1 h).2
    have hk := (List.pairwise_cons.1 h).1
    simp only [Memory.write]
    split
    · rename_i hlt
      refine List.pairwise_cons.2 ⟨?_, h⟩
      intro x hx
      rcases List.mem_cons.1 hx with rfl | hx
      · exact hlt
      · have := hk x hx
        simp only at this ⊢
        omega
    · split
      · rename_i hak
        subst hak
        exact List.pairwise_cons.2 ⟨hk, hm⟩
      · refine List.pairwise_cons.2 ⟨?_, ih hm⟩
        intro x hx
        rcases Memory.mem_write hx with rfl | hx
        · simp only; omega
        · exact hk x hx

/-- Writing a block keeps the canonical form. -/
theorem Memory.wf_writeBytes (bs : List Byte) (a : Nat) {m : Memory} (h : Memory.wf m) :
    Memory.wf (Memory.writeBytes a bs m) := by
  induction bs generalizing a m with
  | nil => exact h
  | cons b bs ih => exact ih (a + 1) (Memory.wf_write a b h)

/-- Forgetting keeps the canonical form. -/
theorem Memory.wf_forget (a n : Nat) {m : Memory} (h : Memory.wf m) : Memory.wf (Memory.forget a n m) :=
  List.Pairwise.filter _ h

/-- What a memory lists after a block is written. -/
theorem Memory.mem_writeBytes {a : Nat} {bs : List Byte} {m : Memory} {x : Nat × Byte}
    (h : x ∈ Memory.writeBytes a bs m) : (a ≤ x.1 ∧ x.1 < a + bs.length) ∨ x ∈ m := by
  induction bs generalizing a m with
  | nil => exact Or.inr h
  | cons b bs ih =>
    rcases ih h with h | h
    · left; simp only [List.length_cons]; omega
    · rcases Memory.mem_write h with rfl | h
      · left; simp
      · exact Or.inr h

/-- Forgetting lists nothing new. -/
theorem Memory.mem_forget {a n : Nat} {m : Memory} {x : Nat × Byte} (h : x ∈ Memory.forget a n m) : x ∈ m :=
  List.mem_of_mem_filter h

/-- Reading a block: it is specified exactly when each of its bytes is, and then it is those bytes. -/
theorem Memory.readBytes_eq_some (m : Memory) (a n : Nat) (bs : List Byte) :
    Memory.readBytes m a n = some bs ↔ bs.length = n ∧ ∀ k, k < n → Memory.read m (a + k) = bs[k]? := by
  induction n generalizing a bs with
  | zero => cases bs <;> simp [Memory.readBytes]
  | succ n ih =>
    rw [Memory.readBytes]
    constructor
    · intro h
      split at h
      · rename_i b bs' hb hbs
        cases h
        obtain ⟨hl, hr⟩ := (ih (a + 1) bs').1 hbs
        refine ⟨by simp [hl], fun k hk => ?_⟩
        cases k with
        | zero => simpa using hb
        | succ k =>
          have := hr k (by omega)
          rw [show a + 1 + k = a + (k + 1) by omega] at this
          simpa using this
      · cases h
    · rintro ⟨hl, hr⟩
      cases bs with
      | nil => simp at hl
      | cons b bs' =>
        have h0 := hr 0 (by omega)
        have hrest : Memory.readBytes m (a + 1) n = some bs' := by
          refine (ih (a + 1) bs').2 ⟨by simpa using hl, fun k hk => ?_⟩
          have := hr (k + 1) (by omega)
          rw [show a + (k + 1) = a + 1 + k by omega] at this
          simpa using this
        simp only [Nat.add_zero, List.getElem?_cons_zero] at h0
        rw [h0, hrest]

/-- Blocks of the same bytes read the same. -/
theorem Memory.readBytes_congr {m m' : Memory} {a n : Nat}
    (h : ∀ x, a ≤ x → x < a + n → Memory.read m x = Memory.read m' x) :
    Memory.readBytes m a n = Memory.readBytes m' a n := by
  induction n generalizing a with
  | zero => rfl
  | succ n ih =>
    simp only [Memory.readBytes]
    rw [h a (by omega) (by omega), ih fun x h1 h2 => h x (by omega) (by omega)]

/-- Nothing is listed below the first entry of a canonical memory. -/
theorem Memory.read_eq_none_of_lt {m : Memory} {a : Nat} (h : ∀ x ∈ m, a < x.1) : Memory.read m a = none := by
  induction m with
  | nil => rfl
  | cons y m ih =>
    obtain ⟨k, v⟩ := y
    have hk := h (k, v) (by simp)
    simp only at hk
    rw [Memory.read, if_neg (by omega)]
    exact ih fun x hx => h x (by simp [hx])

/-- Equal readings are equal memories: the canonical form has one memory for each content. -/
theorem Memory.ext_of_wf {m m' : Memory} (h : Memory.wf m) (h' : Memory.wf m')
    (hr : ∀ a, Memory.read m a = Memory.read m' a) : m = m' := by
  induction m generalizing m' with
  | nil =>
    cases m' with
    | nil => rfl
    | cons y m' => have := hr y.1; simp [Memory.read, Memory.unlisted] at this
  | cons x m ih =>
    obtain ⟨k, v⟩ := x
    obtain ⟨hk, hm⟩ := List.pairwise_cons.1 h
    cases m' with
    | nil => have := hr k; simp [Memory.read, Memory.unlisted] at this
    | cons y m' =>
      obtain ⟨k', v'⟩ := y
      obtain ⟨hk', hm'⟩ := List.pairwise_cons.1 h'
      have hkk : k = k' := by
        rcases Nat.lt_trichotomy k k' with hlt | heq | hlt
        · have h1 := hr k
          rw [Memory.read, if_pos rfl, Memory.read, if_neg (by omega),
            Memory.read_eq_none_of_lt fun x hx => by have := hk' x hx; simp only at this; omega] at h1
          cases h1
        · exact heq
        · have h1 := hr k'
          rw [Memory.read, if_neg (by omega),
            Memory.read_eq_none_of_lt fun x hx => by have := hk x hx; simp only at this; omega,
            Memory.read, if_pos rfl] at h1
          cases h1
      subst hkk
      have hv := hr k
      simp only [Memory.read, if_pos] at hv
      cases hv
      rw [ih hm hm' fun a => ?_]
      by_cases ha : k = a
      · subst ha
        rw [Memory.read_eq_none_of_lt fun x hx => hk x hx, Memory.read_eq_none_of_lt fun x hx => hk' x hx]
      · have := hr a
        simpa [Memory.read, ha] using this

/-- Right after reset the pixel memory has its canonical form. -/
theorem Memory.wf_resetWith (p : Params) : Memory.wf (State.resetWith p).pmem := List.Pairwise.nil

end Sys2Proof.Machine
end

