-- ==== Sys2Proof/Laws/Operands.lean ====
section
/-! SUPPORT. Image operands, layouts and issue checks: what a passed check says, and the places of pixels. -/

namespace Sys2Proof.Machine

@[simp] theorem layout_length (h w c : Nat) (f : Nat → Nat → Nat → Nat) : (layout h w c f).length = h * w * c := by
  simp [layout]

/-- The index of a pixel is inside its image (R50, R51). -/
theorem pixel_index_lt {h w c r cc ch : Nat} (hr : r < h) (hc : cc < w) (hch : ch < c) :
    (r * w + cc) * c + ch < h * w * c := by
  have h1 : r * w + cc < h * w := by
    calc r * w + cc < r * w + w := by omega
      _ = (r + 1) * w := by ring
      _ ≤ h * w := Nat.mul_le_mul_right w hr
  calc (r * w + cc) * c + ch < (r * w + cc) * c + c := by omega
    _ = (r * w + cc + 1) * c := by ring
    _ ≤ h * w * c := Nat.mul_le_mul_right c h1

/-- A pixel index gives back its row, column and channel. -/
theorem pixel_index_parts {w c r cc ch : Nat} (hc : cc < w) (hch : ch < c) :
    ((r * w + cc) * c + ch) / (w * c) = r ∧ ((r * w + cc) * c + ch) / c % w = cc ∧
      ((r * w + cc) * c + ch) % c = ch := by
  have hcpos : 0 < c := by omega
  have h1 : ((r * w + cc) * c + ch) / c = r * w + cc := by
    rw [Nat.add_comm, Nat.add_mul_div_right _ _ hcpos, Nat.div_eq_of_lt hch, Nat.zero_add]
  refine ⟨?_, ?_, ?_⟩
  · rw [Nat.mul_comm w c, ← Nat.div_div_eq_div_mul, h1, Nat.add_comm,
      Nat.add_mul_div_right _ _ (by omega), Nat.div_eq_of_lt hc, Nat.zero_add]
  · rw [h1, Nat.add_comm, Nat.add_mul_mod_self_right, Nat.mod_eq_of_lt hc]
  · rw [Nat.add_comm, Nat.add_mul_mod_self_right, Nat.mod_eq_of_lt hch]

/-- Element `(r·W + c)·C + ch` of a layout is the value at (r, c, ch) (R50, R96). -/
theorem layout_at {h w c r cc ch : Nat} (f : Nat → Nat → Nat → Nat) (hr : r < h) (hc : cc < w) (hch : ch < c) :
    (layout h w c f)[(r * w + cc) * c + ch]? = some (f r cc ch) := by
  obtain ⟨h1, h2, h3⟩ := pixel_index_parts (r := r) hc hch
  simp [layout, pixel_index_lt hr hc hch, h1, h2, h3]

/-- An extent is the offsets from the base up to the size (R51). -/
theorem contains_iff (img : Image) (a : Nat) :
    img.contains a = true ↔ img.base ≤ a ∧ a < img.base + img.size := by
  simp only [Image.contains, Bool.and_eq_true, decide_eq_true_eq]

/-- Every pixel of an image is in its extent. -/
theorem contains_offset {img : Image} {r c ch : Nat} (hr : r < img.h) (hc : c < img.w) (hch : ch < img.c) :
    img.contains (img.offset r c ch) = true := by
  have := pixel_index_lt hr hc hch
  rw [contains_iff]
  unfold Image.offset Image.size
  omega

/-- What R86 has established when the checks pass. -/
theorem checkImage_eq_ok {p : Params} {f : Inflight} (h : checkImage p f = .ok) :
    0 < f.src.h ∧ 0 < f.src.w ∧ f.src.h ≤ p.maxDim ∧ f.src.w ≤ p.maxDim ∧ accepts f.op f.src.c = true ∧
      paramBad f = false ∧ f.src.base + f.src.size ≤ p.pmemBytes ∧ f.dst.base + f.dst.size ≤ p.pmemBytes ∧
      Image.overlap f.src f.dst = false := by
  unfold checkImage at h
  split at h
  · cases h
  · split at h
    · cases h
    · split at h
      · cases h
      · split at h
        · cases h
        · split at h
          · cases h
          · simp_all [Image.fits]
            omega

/-- The converse: the conditions of R86 are all that a command needs to pass. -/
theorem checkImage_ok_of {p : Params} {f : Inflight} (h1 : 0 < f.src.h) (h2 : 0 < f.src.w) (h3 : f.src.h ≤ p.maxDim)
    (h4 : f.src.w ≤ p.maxDim) (h5 : accepts f.op f.src.c = true) (h6 : paramBad f = false)
    (h7 : f.src.base + f.src.size ≤ p.pmemBytes) (h8 : f.dst.base + f.dst.size ≤ p.pmemBytes)
    (h9 : Image.overlap f.src f.dst = false) : checkImage p f = .ok := by
  unfold checkImage
  rw [if_neg (by omega), if_neg (by simp [h5]), if_neg (by simp [h6]),
    if_neg (by simp [Image.fits, h7, h8]), if_neg (by simp [h9])]

/-- Extents that do not overlap share no byte (R87), given that both hold one. -/
theorem not_contains_of_not_overlap {a b : Image} {x : Nat} (h : Image.overlap a b = false)
    (hb : b.contains x = true) : a.contains x = false := by
  simp [Image.overlap, Image.contains] at *
  omega

/-- Cout of an accepted channel count is that count (R95): every accepted command keeps the channel count. -/
theorem cout_of_accepts {op : ImageOp} {c : Nat} (h : accepts op c = true) : cout op c = c := by
  cases op <;> simp_all [accepts, cout]

@[simp] theorem snapshot_op (op : ImageOp) (r : Regs) : (snapshot op r).op = op := rfl
@[simp] theorem snapshot_par (op : ImageOp) (r : Regs) : (snapshot op r).par = commandPar r := rfl

/-- A snapshot that passes its checks is a record the invariant admits. -/
theorem recordOk_snapshot {p : Params} {op : ImageOp} {r : Regs} (h : checkImage p (snapshot op r) = .ok) :
    recordOk p (snapshot op r) := ⟨h, rfl, rfl, rfl⟩

end Sys2Proof.Machine
end

