-- ==== Sys2Proof/Laws/State.lean ====
section
/-! SUPPORT. One lemma per field per update of the register fields and of the state, so that no later proof unfolds a
record update. -/

namespace Sys2Proof.Machine

/-! ### Register-field updates (Flags.lean) -/

section
variable (r : Regs)

@[simp] theorem Regs.writeStatus_ie (v : Word) : (Regs.writeStatus v r).ie = r.ie := rfl
@[simp] theorem Regs.writeStatus_busy (v : Word) : (Regs.writeStatus v r).busy = r.busy := rfl
@[simp] theorem Regs.writeStatus_done (v : Word) : (Regs.writeStatus v r).done = (r.done && !v.getLsbD 1) := rfl
@[simp] theorem Regs.writeStatus_ovr (v : Word) : (Regs.writeStatus v r).ovr = (r.ovr && !v.getLsbD 4) := rfl
@[simp] theorem Regs.writeStatus_haz (v : Word) : (Regs.writeStatus v r).haz = (r.haz && !v.getLsbD 5) := rfl
@[simp] theorem Regs.writeStatus_errCode (v : Word) : (Regs.writeStatus v r).errCode = r.errCode := rfl
@[simp] theorem Regs.writeStatus_lastOp (v : Word) : (Regs.writeStatus v r).lastOp = r.lastOp := rfl
@[simp] theorem Regs.writeStatus_srcBase (v : Word) : (Regs.writeStatus v r).srcBase = r.srcBase := rfl
@[simp] theorem Regs.writeStatus_dstBase (v : Word) : (Regs.writeStatus v r).dstBase = r.dstBase := rfl
@[simp] theorem Regs.writeStatus_dimH (v : Word) : (Regs.writeStatus v r).dimH = r.dimH := rfl
@[simp] theorem Regs.writeStatus_dimW (v : Word) : (Regs.writeStatus v r).dimW = r.dimW := rfl
@[simp] theorem Regs.writeStatus_fmtCh (v : Word) : (Regs.writeStatus v r).fmtCh = r.fmtCh := rfl
@[simp] theorem Regs.writeStatus_gammaG (v : Word) : (Regs.writeStatus v r).gammaG = r.gammaG := rfl
@[simp] theorem Regs.writeStatus_bwCut (v : Word) : (Regs.writeStatus v r).bwCut = r.bwCut := rfl
@[simp] theorem Regs.writeStatus_bwOrd (v : Word) : (Regs.writeStatus v r).bwOrd = r.bwOrd := rfl
@[simp] theorem Regs.writeStatus_wnK (v : Word) : (Regs.writeStatus v r).wnK = r.wnK := rfl
@[simp] theorem Regs.writeStatus_wnNp (v : Word) : (Regs.writeStatus v r).wnNp = r.wnNp := rfl

@[simp] theorem Regs.report_ie (op : BitVec 8) (code : ErrCode) : (Regs.report op code r).ie = r.ie := rfl
@[simp] theorem Regs.report_busy (op : BitVec 8) (code : ErrCode) : (Regs.report op code r).busy = r.busy := rfl
@[simp] theorem Regs.report_done (op : BitVec 8) (code : ErrCode) : (Regs.report op code r).done = true := rfl
@[simp] theorem Regs.report_ovr (op : BitVec 8) (code : ErrCode) : (Regs.report op code r).ovr = r.ovr := rfl
@[simp] theorem Regs.report_haz (op : BitVec 8) (code : ErrCode) : (Regs.report op code r).haz = r.haz := rfl
@[simp] theorem Regs.report_errCode (op : BitVec 8) (code : ErrCode) : (Regs.report op code r).errCode = code.toBits := rfl
@[simp] theorem Regs.report_lastOp (op : BitVec 8) (code : ErrCode) : (Regs.report op code r).lastOp = op := rfl
@[simp] theorem Regs.report_srcBase (op : BitVec 8) (code : ErrCode) : (Regs.report op code r).srcBase = r.srcBase := rfl
@[simp] theorem Regs.report_dstBase (op : BitVec 8) (code : ErrCode) : (Regs.report op code r).dstBase = r.dstBase := rfl
@[simp] theorem Regs.report_dimH (op : BitVec 8) (code : ErrCode) : (Regs.report op code r).dimH = r.dimH := rfl
@[simp] theorem Regs.report_dimW (op : BitVec 8) (code : ErrCode) : (Regs.report op code r).dimW = r.dimW := rfl
@[simp] theorem Regs.report_fmtCh (op : BitVec 8) (code : ErrCode) : (Regs.report op code r).fmtCh = r.fmtCh := rfl
@[simp] theorem Regs.report_gammaG (op : BitVec 8) (code : ErrCode) : (Regs.report op code r).gammaG = r.gammaG := rfl
@[simp] theorem Regs.report_bwCut (op : BitVec 8) (code : ErrCode) : (Regs.report op code r).bwCut = r.bwCut := rfl
@[simp] theorem Regs.report_bwOrd (op : BitVec 8) (code : ErrCode) : (Regs.report op code r).bwOrd = r.bwOrd := rfl
@[simp] theorem Regs.report_wnK (op : BitVec 8) (code : ErrCode) : (Regs.report op code r).wnK = r.wnK := rfl
@[simp] theorem Regs.report_wnNp (op : BitVec 8) (code : ErrCode) : (Regs.report op code r).wnNp = r.wnNp := rfl

@[simp] theorem Regs.finish_ie (op : BitVec 8) : (Regs.finish op r).ie = r.ie := rfl
@[simp] theorem Regs.finish_busy (op : BitVec 8) : (Regs.finish op r).busy = false := rfl
@[simp] theorem Regs.finish_done (op : BitVec 8) : (Regs.finish op r).done = true := rfl
@[simp] theorem Regs.finish_ovr (op : BitVec 8) : (Regs.finish op r).ovr = r.ovr := rfl
@[simp] theorem Regs.finish_haz (op : BitVec 8) : (Regs.finish op r).haz = r.haz := rfl
@[simp] theorem Regs.finish_errCode (op : BitVec 8) : (Regs.finish op r).errCode = 0#4 := rfl
@[simp] theorem Regs.finish_lastOp (op : BitVec 8) : (Regs.finish op r).lastOp = op := rfl
@[simp] theorem Regs.finish_srcBase (op : BitVec 8) : (Regs.finish op r).srcBase = r.srcBase := rfl
@[simp] theorem Regs.finish_dstBase (op : BitVec 8) : (Regs.finish op r).dstBase = r.dstBase := rfl
@[simp] theorem Regs.finish_dimH (op : BitVec 8) : (Regs.finish op r).dimH = r.dimH := rfl
@[simp] theorem Regs.finish_dimW (op : BitVec 8) : (Regs.finish op r).dimW = r.dimW := rfl
@[simp] theorem Regs.finish_fmtCh (op : BitVec 8) : (Regs.finish op r).fmtCh = r.fmtCh := rfl
@[simp] theorem Regs.finish_gammaG (op : BitVec 8) : (Regs.finish op r).gammaG = r.gammaG := rfl
@[simp] theorem Regs.finish_bwCut (op : BitVec 8) : (Regs.finish op r).bwCut = r.bwCut := rfl
@[simp] theorem Regs.finish_bwOrd (op : BitVec 8) : (Regs.finish op r).bwOrd = r.bwOrd := rfl
@[simp] theorem Regs.finish_wnK (op : BitVec 8) : (Regs.finish op r).wnK = r.wnK := rfl
@[simp] theorem Regs.finish_wnNp (op : BitVec 8) : (Regs.finish op r).wnNp = r.wnNp := rfl

@[simp] theorem Regs.start_ie : (Regs.start r).ie = r.ie := rfl
@[simp] theorem Regs.start_busy : (Regs.start r).busy = true := rfl
@[simp] theorem Regs.start_done : (Regs.start r).done = r.done := rfl
@[simp] theorem Regs.start_ovr : (Regs.start r).ovr = r.ovr := rfl
@[simp] theorem Regs.start_haz : (Regs.start r).haz = r.haz := rfl
@[simp] theorem Regs.start_errCode : (Regs.start r).errCode = r.errCode := rfl
@[simp] theorem Regs.start_lastOp : (Regs.start r).lastOp = r.lastOp := rfl
@[simp] theorem Regs.start_srcBase : (Regs.start r).srcBase = r.srcBase := rfl
@[simp] theorem Regs.start_dstBase : (Regs.start r).dstBase = r.dstBase := rfl
@[simp] theorem Regs.start_dimH : (Regs.start r).dimH = r.dimH := rfl
@[simp] theorem Regs.start_dimW : (Regs.start r).dimW = r.dimW := rfl
@[simp] theorem Regs.start_fmtCh : (Regs.start r).fmtCh = r.fmtCh := rfl
@[simp] theorem Regs.start_gammaG : (Regs.start r).gammaG = r.gammaG := rfl
@[simp] theorem Regs.start_bwCut : (Regs.start r).bwCut = r.bwCut := rfl
@[simp] theorem Regs.start_bwOrd : (Regs.start r).bwOrd = r.bwOrd := rfl
@[simp] theorem Regs.start_wnK : (Regs.start r).wnK = r.wnK := rfl
@[simp] theorem Regs.start_wnNp : (Regs.start r).wnNp = r.wnNp := rfl

@[simp] theorem Regs.setOvr_ie : (Regs.setOvr r).ie = r.ie := rfl
@[simp] theorem Regs.setOvr_busy : (Regs.setOvr r).busy = r.busy := rfl
@[simp] theorem Regs.setOvr_done : (Regs.setOvr r).done = r.done := rfl
@[simp] theorem Regs.setOvr_ovr : (Regs.setOvr r).ovr = true := rfl
@[simp] theorem Regs.setOvr_haz : (Regs.setOvr r).haz = r.haz := rfl
@[simp] theorem Regs.setOvr_errCode : (Regs.setOvr r).errCode = r.errCode := rfl
@[simp] theorem Regs.setOvr_lastOp : (Regs.setOvr r).lastOp = r.lastOp := rfl
@[simp] theorem Regs.setOvr_srcBase : (Regs.setOvr r).srcBase = r.srcBase := rfl
@[simp] theorem Regs.setOvr_dstBase : (Regs.setOvr r).dstBase = r.dstBase := rfl
@[simp] theorem Regs.setOvr_dimH : (Regs.setOvr r).dimH = r.dimH := rfl
@[simp] theorem Regs.setOvr_dimW : (Regs.setOvr r).dimW = r.dimW := rfl
@[simp] theorem Regs.setOvr_fmtCh : (Regs.setOvr r).fmtCh = r.fmtCh := rfl
@[simp] theorem Regs.setOvr_gammaG : (Regs.setOvr r).gammaG = r.gammaG := rfl
@[simp] theorem Regs.setOvr_bwCut : (Regs.setOvr r).bwCut = r.bwCut := rfl
@[simp] theorem Regs.setOvr_bwOrd : (Regs.setOvr r).bwOrd = r.bwOrd := rfl
@[simp] theorem Regs.setOvr_wnK : (Regs.setOvr r).wnK = r.wnK := rfl
@[simp] theorem Regs.setOvr_wnNp : (Regs.setOvr r).wnNp = r.wnNp := rfl

@[simp] theorem Regs.setHaz_ie : (Regs.setHaz r).ie = r.ie := rfl
@[simp] theorem Regs.setHaz_busy : (Regs.setHaz r).busy = r.busy := rfl
@[simp] theorem Regs.setHaz_done : (Regs.setHaz r).done = r.done := rfl
@[simp] theorem Regs.setHaz_ovr : (Regs.setHaz r).ovr = r.ovr := rfl
@[simp] theorem Regs.setHaz_haz : (Regs.setHaz r).haz = true := rfl
@[simp] theorem Regs.setHaz_errCode : (Regs.setHaz r).errCode = r.errCode := rfl
@[simp] theorem Regs.setHaz_lastOp : (Regs.setHaz r).lastOp = r.lastOp := rfl
@[simp] theorem Regs.setHaz_srcBase : (Regs.setHaz r).srcBase = r.srcBase := rfl
@[simp] theorem Regs.setHaz_dstBase : (Regs.setHaz r).dstBase = r.dstBase := rfl
@[simp] theorem Regs.setHaz_dimH : (Regs.setHaz r).dimH = r.dimH := rfl
@[simp] theorem Regs.setHaz_dimW : (Regs.setHaz r).dimW = r.dimW := rfl
@[simp] theorem Regs.setHaz_fmtCh : (Regs.setHaz r).fmtCh = r.fmtCh := rfl
@[simp] theorem Regs.setHaz_gammaG : (Regs.setHaz r).gammaG = r.gammaG := rfl
@[simp] theorem Regs.setHaz_bwCut : (Regs.setHaz r).bwCut = r.bwCut := rfl
@[simp] theorem Regs.setHaz_bwOrd : (Regs.setHaz r).bwOrd = r.bwOrd := rfl
@[simp] theorem Regs.setHaz_wnK : (Regs.setHaz r).wnK = r.wnK := rfl
@[simp] theorem Regs.setHaz_wnNp : (Regs.setHaz r).wnNp = r.wnNp := rfl

end

/-! ### State updates (Ops.lean) -/

section
variable (s : State)

@[simp] theorem State.respond_params (x : Response) : (State.respond x s).params = s.params := rfl
@[simp] theorem State.respond_regs (x : Response) : (State.respond x s).regs = s.regs := rfl
@[simp] theorem State.respond_pmem (x : Response) : (State.respond x s).pmem = s.pmem := rfl
@[simp] theorem State.respond_inflight (x : Response) : (State.respond x s).inflight = s.inflight := rfl
@[simp] theorem State.respond_resetAsserted (x : Response) : (State.respond x s).resetAsserted = s.resetAsserted := rfl
@[simp] theorem State.respond_turns (x : Response) : (State.respond x s).turns = s.turns := rfl
@[simp] theorem State.respond_resp (x : Response) : (State.respond x s).resp = some x := rfl
@[simp] theorem State.respond_epoch (x : Response) : (State.respond x s).epoch = s.epoch := rfl
@[simp] theorem State.respond_draws (x : Response) : (State.respond x s).draws = s.draws := rfl

@[simp] theorem State.advance_params (rest : List Turn) : (State.advance rest s).params = s.params := rfl
@[simp] theorem State.advance_regs (rest : List Turn) : (State.advance rest s).regs = s.regs := rfl
@[simp] theorem State.advance_pmem (rest : List Turn) : (State.advance rest s).pmem = s.pmem := rfl
@[simp] theorem State.advance_inflight (rest : List Turn) : (State.advance rest s).inflight = s.inflight := rfl
@[simp] theorem State.advance_resetAsserted (rest : List Turn) : (State.advance rest s).resetAsserted = s.resetAsserted := rfl
@[simp] theorem State.advance_turns (rest : List Turn) : (State.advance rest s).turns = rest := rfl
@[simp] theorem State.advance_resp (rest : List Turn) : (State.advance rest s).resp = s.resp := rfl
@[simp] theorem State.advance_draws (rest : List Turn) : (State.advance rest s).draws = s.draws := rfl
@[simp] theorem State.advance_epoch (rest : List Turn) : (State.advance rest s).epoch = s.epoch + 1 := rfl

@[simp] theorem State.pass_params (rest : List Turn) : (State.pass rest s).params = s.params := rfl
@[simp] theorem State.pass_regs (rest : List Turn) : (State.pass rest s).regs = s.regs := rfl
@[simp] theorem State.pass_pmem (rest : List Turn) : (State.pass rest s).pmem = s.pmem := rfl
@[simp] theorem State.pass_inflight (rest : List Turn) : (State.pass rest s).inflight = s.inflight := rfl
@[simp] theorem State.pass_resetAsserted (rest : List Turn) : (State.pass rest s).resetAsserted = s.resetAsserted := rfl
@[simp] theorem State.pass_turns (rest : List Turn) : (State.pass rest s).turns = rest := rfl
@[simp] theorem State.pass_resp (rest : List Turn) : (State.pass rest s).resp = s.resp := rfl
@[simp] theorem State.pass_draws (rest : List Turn) : (State.pass rest s).draws = s.draws := rfl
@[simp] theorem State.pass_epoch (rest : List Turn) : (State.pass rest s).epoch = s.epoch := rfl

@[simp] theorem State.advanceRead_params (rest : List Turn) : (State.advanceRead rest s).params = s.params := rfl
@[simp] theorem State.advanceRead_regs (rest : List Turn) : (State.advanceRead rest s).regs = s.regs := rfl
@[simp] theorem State.advanceRead_pmem (rest : List Turn) : (State.advanceRead rest s).pmem = s.pmem := rfl
@[simp] theorem State.advanceRead_inflight (rest : List Turn) : (State.advanceRead rest s).inflight = s.inflight := rfl
@[simp] theorem State.advanceRead_resetAsserted (rest : List Turn) : (State.advanceRead rest s).resetAsserted = s.resetAsserted := rfl
@[simp] theorem State.advanceRead_turns (rest : List Turn) : (State.advanceRead rest s).turns = rest := rfl
@[simp] theorem State.advanceRead_resp (rest : List Turn) : (State.advanceRead rest s).resp = s.resp := rfl
@[simp] theorem State.advanceRead_epoch (rest : List Turn) : (State.advanceRead rest s).epoch = s.epoch := rfl
@[simp] theorem State.advanceRead_draws (rest : List Turn) : (State.advanceRead rest s).draws = s.draws + 1 := rfl

@[simp] theorem errorComplete_params (op : BitVec 8) (code : ErrCode) : (errorComplete op code s).params = s.params := rfl
@[simp] theorem errorComplete_regs (op : BitVec 8) (code : ErrCode) : (errorComplete op code s).regs = s.regs.report op code := rfl
@[simp] theorem errorComplete_pmem (op : BitVec 8) (code : ErrCode) : (errorComplete op code s).pmem = s.pmem := rfl
@[simp] theorem errorComplete_inflight (op : BitVec 8) (code : ErrCode) : (errorComplete op code s).inflight = s.inflight := rfl
@[simp] theorem errorComplete_resetAsserted (op : BitVec 8) (code : ErrCode) : (errorComplete op code s).resetAsserted = s.resetAsserted := rfl
@[simp] theorem errorComplete_turns (op : BitVec 8) (code : ErrCode) : (errorComplete op code s).turns = s.turns := rfl
@[simp] theorem errorComplete_resp (op : BitVec 8) (code : ErrCode) : (errorComplete op code s).resp = s.resp := rfl
@[simp] theorem errorComplete_epoch (op : BitVec 8) (code : ErrCode) : (errorComplete op code s).epoch = s.epoch := rfl
@[simp] theorem errorComplete_draws (op : BitVec 8) (code : ErrCode) : (errorComplete op code s).draws = s.draws := rfl

@[simp] theorem nopComplete_params : (nopComplete s).params = s.params := rfl
@[simp] theorem nopComplete_regs : (nopComplete s).regs = s.regs.report 0x00#8 .ok := rfl
@[simp] theorem nopComplete_pmem : (nopComplete s).pmem = s.pmem := rfl
@[simp] theorem nopComplete_inflight : (nopComplete s).inflight = s.inflight := rfl
@[simp] theorem nopComplete_resetAsserted : (nopComplete s).resetAsserted = s.resetAsserted := rfl
@[simp] theorem nopComplete_turns : (nopComplete s).turns = s.turns := rfl
@[simp] theorem nopComplete_resp : (nopComplete s).resp = s.resp := rfl
@[simp] theorem nopComplete_epoch : (nopComplete s).epoch = s.epoch := rfl
@[simp] theorem nopComplete_draws : (nopComplete s).draws = s.draws := rfl

@[simp] theorem startCommand_params (f : Inflight) : (startCommand f s).params = s.params := rfl
@[simp] theorem startCommand_regs (f : Inflight) : (startCommand f s).regs = s.regs.start := rfl
@[simp] theorem startCommand_pmem (f : Inflight) : (startCommand f s).pmem = s.pmem := rfl
@[simp] theorem startCommand_inflight (f : Inflight) : (startCommand f s).inflight = some f := rfl
@[simp] theorem startCommand_resetAsserted (f : Inflight) : (startCommand f s).resetAsserted = s.resetAsserted := rfl
@[simp] theorem startCommand_turns (f : Inflight) : (startCommand f s).turns = s.turns := rfl
@[simp] theorem startCommand_resp (f : Inflight) : (startCommand f s).resp = s.resp := rfl
@[simp] theorem startCommand_epoch (f : Inflight) : (startCommand f s).epoch = s.epoch := rfl
@[simp] theorem startCommand_draws (f : Inflight) : (startCommand f s).draws = s.draws := rfl

@[simp] theorem commandLost_params : (commandLost s).params = s.params := rfl
@[simp] theorem commandLost_regs : (commandLost s).regs = s.regs.setOvr := rfl
@[simp] theorem commandLost_pmem : (commandLost s).pmem = s.pmem := rfl
@[simp] theorem commandLost_inflight : (commandLost s).inflight = s.inflight := rfl
@[simp] theorem commandLost_resetAsserted : (commandLost s).resetAsserted = s.resetAsserted := rfl
@[simp] theorem commandLost_turns : (commandLost s).turns = s.turns := rfl
@[simp] theorem commandLost_resp : (commandLost s).resp = s.resp := rfl
@[simp] theorem commandLost_epoch : (commandLost s).epoch = s.epoch := rfl
@[simp] theorem commandLost_draws : (commandLost s).draws = s.draws := rfl

@[simp] theorem hardReset_params : (hardReset s).params = s.params := rfl
@[simp] theorem hardReset_regs : (hardReset s).regs = Regs.reset := rfl
@[simp] theorem hardReset_pmem : (hardReset s).pmem = [] := rfl
@[simp] theorem hardReset_inflight : (hardReset s).inflight = none := rfl
@[simp] theorem hardReset_resetAsserted : (hardReset s).resetAsserted = false := rfl
@[simp] theorem hardReset_turns : (hardReset s).turns = s.turns := rfl
@[simp] theorem hardReset_resp : (hardReset s).resp = s.resp := rfl
@[simp] theorem hardReset_epoch : (hardReset s).epoch = s.epoch + 1 := rfl
@[simp] theorem hardReset_draws : (hardReset s).draws = s.draws := rfl

@[simp] theorem busError_params : (busError s).params = s.params := rfl
@[simp] theorem busError_regs : (busError s).regs = s.regs := rfl
@[simp] theorem busError_pmem : (busError s).pmem = s.pmem := rfl
@[simp] theorem busError_inflight : (busError s).inflight = s.inflight := rfl
@[simp] theorem busError_resetAsserted : (busError s).resetAsserted = s.resetAsserted := rfl
@[simp] theorem busError_turns : (busError s).turns = s.turns := rfl
@[simp] theorem busError_resp : (busError s).resp = some .fault := rfl
@[simp] theorem busError_epoch : (busError s).epoch = s.epoch := rfl
@[simp] theorem busError_draws : (busError s).draws = s.draws := rfl

@[simp] theorem abort_params : (abort s).params = s.params := by
  unfold abort; split <;> rfl
@[simp] theorem abort_regs : (abort s).regs = s.regs := by
  unfold abort; split <;> rfl
@[simp] theorem abort_inflight : (abort s).inflight = none := by
  unfold abort; split <;> simp_all
@[simp] theorem abort_resetAsserted : (abort s).resetAsserted = s.resetAsserted := by
  unfold abort; split <;> rfl
@[simp] theorem abort_turns : (abort s).turns = s.turns := by
  unfold abort; split <;> rfl
@[simp] theorem abort_resp : (abort s).resp = s.resp := by
  unfold abort; split <;> rfl
@[simp] theorem abort_epoch : (abort s).epoch = s.epoch := by
  unfold abort; split <;> rfl
@[simp] theorem abort_draws : (abort s).draws = s.draws := by
  unfold abort; split <;> rfl

/-- Abort changes the destination of the command in flight and nothing else of the pixel memory (R147). -/
theorem abort_pmem : (abort s).pmem = match s.inflight with
    | none => s.pmem
    | some f => Memory.forget f.dst.base f.dst.size s.pmem := by
  unfold abort; split <;> simp_all

@[simp] theorem softReset_params : (softReset s).params = s.params := by simp [softReset]
@[simp] theorem softReset_regs : (softReset s).regs = Regs.reset := by simp [softReset]
@[simp] theorem softReset_pmem : (softReset s).pmem = (abort s).pmem := by simp [softReset]
@[simp] theorem softReset_inflight : (softReset s).inflight = none := by simp [softReset]
@[simp] theorem softReset_resetAsserted : (softReset s).resetAsserted = s.resetAsserted := by simp [softReset]
@[simp] theorem softReset_turns : (softReset s).turns = s.turns := by simp [softReset]
@[simp] theorem softReset_resp : (softReset s).resp = s.resp := by simp [softReset]
@[simp] theorem softReset_epoch : (softReset s).epoch = s.epoch := by simp [softReset]
@[simp] theorem softReset_draws : (softReset s).draws = s.draws := by simp [softReset]

@[simp] theorem takeTurn_params (a : Access) (rest : List Turn) : (takeTurn a rest s).params = s.params := by
  cases a <;> rfl
@[simp] theorem takeTurn_regs (a : Access) (rest : List Turn) : (takeTurn a rest s).regs = s.regs := by
  cases a <;> rfl
@[simp] theorem takeTurn_pmem (a : Access) (rest : List Turn) : (takeTurn a rest s).pmem = s.pmem := by
  cases a <;> rfl
@[simp] theorem takeTurn_inflight (a : Access) (rest : List Turn) : (takeTurn a rest s).inflight = s.inflight := by
  cases a <;> rfl
@[simp] theorem takeTurn_resetAsserted (a : Access) (rest : List Turn) : (takeTurn a rest s).resetAsserted = s.resetAsserted := by
  cases a <;> rfl
@[simp] theorem takeTurn_resp (a : Access) (rest : List Turn) : (takeTurn a rest s).resp = s.resp := by
  cases a <;> rfl
@[simp] theorem takeTurn_turns (a : Access) (rest : List Turn) : (takeTurn a rest s).turns = rest := by
  cases a <;> rfl
@[simp] theorem takeTurn_read (addr : BitVec 32) (w : Width) (rest : List Turn) :
    takeTurn (.read addr w) rest s = s.advanceRead rest := rfl
@[simp] theorem takeTurn_write (addr : BitVec 32) (d : Datum) (rest : List Turn) :
    takeTurn (.write addr d) rest s = s.advance rest := rfl

@[simp] theorem pmemWrite_params (a : Nat) (d : Datum) : (pmemWrite a d s).params = s.params := by
  unfold pmemWrite; split <;> rfl
@[simp] theorem pmemWrite_inflight (a : Nat) (d : Datum) : (pmemWrite a d s).inflight = s.inflight := by
  unfold pmemWrite; split <;> rfl
@[simp] theorem pmemWrite_resetAsserted (a : Nat) (d : Datum) : (pmemWrite a d s).resetAsserted = s.resetAsserted := by
  unfold pmemWrite; split <;> rfl
@[simp] theorem pmemWrite_turns (a : Nat) (d : Datum) : (pmemWrite a d s).turns = s.turns := by
  unfold pmemWrite; split <;> rfl
@[simp] theorem pmemWrite_resp (a : Nat) (d : Datum) : (pmemWrite a d s).resp = s.resp := by
  unfold pmemWrite; split <;> rfl
@[simp] theorem pmemWrite_epoch (a : Nat) (d : Datum) : (pmemWrite a d s).epoch = s.epoch := by
  unfold pmemWrite; split <;> rfl
@[simp] theorem pmemWrite_draws (a : Nat) (d : Datum) : (pmemWrite a d s).draws = s.draws := by
  unfold pmemWrite; split <;> rfl

/-- While BUSY = 1 a host write of pixel memory only sets HAZ (R62). -/
theorem pmemWrite_busy (a : Nat) (d : Datum) (h : s.regs.busy = true) :
    pmemWrite a d s = { s with regs := s.regs.setHaz } := by simp [pmemWrite, h]

/-- While BUSY = 0 a host write of pixel memory stores its bytes (R47). -/
theorem pmemWrite_idle (a : Nat) (d : Datum) (h : s.regs.busy = false) :
    pmemWrite a d s = { s with pmem := Memory.writeBytes a (datumBytes d) s.pmem } := by simp [pmemWrite, h]

/-- The core's step with nothing in flight (R90, R144). -/
theorem complete_none (h : s.inflight = none) : complete s = s := by simp [complete, h]

/-- The core's step with a command in flight (R91). -/
theorem complete_some (f : Inflight) (h : s.inflight = some f) : complete s =
    { s with pmem := storeResult s.params f s.pmem, regs := s.regs.finish f.op.opcode, inflight := none,
             epoch := s.epoch + 1 } := by simp [complete, h]

@[simp] theorem complete_params : (complete s).params = s.params := by
  unfold complete; split <;> rfl
@[simp] theorem complete_resetAsserted : (complete s).resetAsserted = s.resetAsserted := by
  unfold complete; split <;> rfl
@[simp] theorem complete_turns : (complete s).turns = s.turns := by
  unfold complete; split <;> rfl
@[simp] theorem complete_resp : (complete s).resp = s.resp := by
  unfold complete; split <;> rfl
@[simp] theorem complete_inflight : (complete s).inflight = none := by
  unfold complete; split <;> simp_all

end

end Sys2Proof.Machine
end

