-- ==== Sys2Proof/Laws/Issue.lean ====
section
/-! SUPPORT. What an issue can do (R83): said once for the six image commands and for NOP. -/

namespace Sys2Proof.Machine

/-- Every image command's meaning is the issue of its operation. -/
theorem exec_image (op : ImageOp) (s : State) : exec (imageInstr op) s = issueImage op s := by
  cases op <;> rfl

theorem exec_nop (s : State) : exec .nop s = execNop s := rfl

/-- While BUSY, an issue only sets OVR (R84). -/
theorem issueImage_busy {op : ImageOp} {s : State} (h : s.regs.busy = true) :
    issueImage op s = .next (commandLost s) := by simp [issueImage, h]

/-- A command whose checks pass starts (R89). -/
theorem issueImage_ok {op : ImageOp} {s : State} (h : s.regs.busy = false)
    (hc : checkImage s.params (snapshot op s.regs) = .ok) :
    issueImage op s = .next (startCommand (snapshot op s.regs) s) := by simp [issueImage, h, hc]

/-- A command that fails a check completes at once with that check's code (R88). -/
theorem issueImage_fails {op : ImageOp} {s : State} (h : s.regs.busy = false)
    (hc : checkImage s.params (snapshot op s.regs) ≠ .ok) :
    issueImage op s = .next (errorComplete op.opcode (checkImage s.params (snapshot op s.regs)) s) := by
  unfold issueImage
  rw [if_neg (by simp [h])]
  split <;> simp_all

/-- Everything an issue of an image command can do. -/
theorem issueImage_cases (op : ImageOp) (s : State) :
    (s.regs.busy = true ∧ issueImage op s = .next (commandLost s)) ∨
    (s.regs.busy = false ∧ checkImage s.params (snapshot op s.regs) = .ok ∧
      issueImage op s = .next (startCommand (snapshot op s.regs) s)) ∨
    (s.regs.busy = false ∧ checkImage s.params (snapshot op s.regs) ≠ .ok ∧
      issueImage op s = .next (errorComplete op.opcode (checkImage s.params (snapshot op s.regs)) s)) := by
  cases h : s.regs.busy
  · by_cases hc : checkImage s.params (snapshot op s.regs) = .ok
    · exact .inr (.inl ⟨rfl, hc, issueImage_ok h hc⟩)
    · exact .inr (.inr ⟨rfl, hc, issueImage_fails h hc⟩)
  · exact .inl ⟨rfl, issueImage_busy h⟩

@[simp] theorem opcode_imageInstr (op : ImageOp) : (imageInstr op).opcode = op.opcode := by cases op <;> rfl

/-- `issueImage_cases` with the command's own name and opcode. -/
theorem exec_image_cases (op : ImageOp) (s : State) :
    (s.regs.busy = true ∧ exec (imageInstr op) s = .next (commandLost s)) ∨
    (s.regs.busy = false ∧ ∃ code, exec (imageInstr op) s = .next (errorComplete (imageInstr op).opcode code s)) ∨
    (s.regs.busy = false ∧ ∃ op', checkImage s.params (snapshot op' s.regs) = .ok ∧
      exec (imageInstr op) s = .next (startCommand (snapshot op' s.regs) s)) := by
  rw [exec_image, opcode_imageInstr]
  rcases issueImage_cases op s with h | ⟨h, hc, e⟩ | ⟨h, hc, e⟩
  · exact .inl h
  · exact .inr (.inr ⟨h, op, hc, e⟩)
  · exact .inr (.inl ⟨h, _, e⟩)

/-- Everything an issue of any command can do: it is lost, it reports at once, or it starts. -/
theorem exec_cases (i : Instr) (s : State) :
    (s.regs.busy = true ∧ exec i s = .next (commandLost s)) ∨
    (s.regs.busy = false ∧ ∃ code, exec i s = .next (errorComplete i.opcode code s)) ∨
    (s.regs.busy = false ∧ ∃ op, checkImage s.params (snapshot op s.regs) = .ok ∧
      exec i s = .next (startCommand (snapshot op s.regs) s)) := by
  cases i with
  | nop =>
    cases h : s.regs.busy
    · exact .inr (.inl ⟨rfl, .ok, by simp only [exec, execNop, h]; rfl⟩)
    · exact .inl ⟨rfl, by simp [exec, execNop, h]⟩
  | cstretch => exact exec_image_cases .cstretch s
  | gamma => exact exec_image_cases .gamma s
  | histeq => exact exec_image_cases .histeq s
  | butter => exact exec_image_cases .butter s
  | wiener => exact exec_image_cases .wiener s
  | median => exact exec_image_cases .median s

end Sys2Proof.Machine
end

