-- ==== Sys2Proof/Laws/Bus.lean ====
section
/-! SUPPORT. The bus: platform addresses, and what each kind of turn makes of a step. -/

namespace Sys2Proof.Machine

theorem inWindow_append (p : Params) (x : BitVec 25) : inWindow p (p.baseWindow ++ x) = true := by
  have h : (p.baseWindow ++ x).extractLsb' 25 7 = p.baseWindow := by
    ext i hi
    rw [BitVec.getElem_extractLsb']
    exact (BitVec.getLsbD_append (x := p.baseWindow) (y := x)).trans (by simp [BitVec.getLsbD_eq_getElem hi])
  simp [inWindow, h]

theorem windowOffset_append (p : Params) (x : BitVec 25) : windowOffset (p.baseWindow ++ x) = x.toNat := by
  have h : (p.baseWindow ++ x).extractLsb' 0 25 = x := by
    ext i hi
    rw [BitVec.getElem_extractLsb']
    exact (BitVec.getLsbD_append (x := p.baseWindow) (y := x)).trans (by simp [hi])
  rw [windowOffset, h]

/-- Every register's platform address is in the window. -/
@[simp] theorem inWindow_regAddr (p : Params) (r : RegName) : inWindow p (regAddr p r) = true :=
  inWindow_append p _

/-- The window offset of a register is the offset of R17. -/
@[simp] theorem windowOffset_regAddr (p : Params) (r : RegName) : windowOffset (regAddr p r) = regOffset r := by
  rw [regAddr, windowOffset_append]
  cases r <;> rfl

/-- Every PMEM offset's platform address is in the window. -/
@[simp] theorem inWindow_pmemAddr (p : Params) (a : Nat) : inWindow p (pmemAddr p a) = true :=
  inWindow_append p _

/-- The window offset of a PMEM offset (R46). -/
theorem windowOffset_pmemAddr {p : Params} {a : Nat} (h : a < 0x1000000) :
    windowOffset (pmemAddr p a) = 0x1000000 + a := by
  rw [pmemAddr, windowOffset_append, BitVec.toNat_ofNat, Nat.mod_eq_of_lt (by omega)]

/-- The register map and its offsets agree (R17). -/
@[simp] theorem regAt_regOffset (r : RegName) : regAt (regOffset r) = some r := by cases r <;> rfl

/-- A register offset is in the register space (R46). -/
@[simp] theorem target_regOffset (p : Params) (r : RegName) : target p (regOffset r) = .register (regOffset r) := by
  cases r <;> rfl

theorem regOffset_aligned (r : RegName) : regOffset r % 4 = 0 := by cases r <;> rfl

/-- A legal pixel-memory size keeps PMEM inside the window (R7, R46). -/
theorem pmemBytes_le {p : Params} (h : p.legal = true) : p.pmemBytes ≤ 0x1000000 := by
  simp only [Params.legal, Params.pmemLegal, Params.pmemBytes, Bool.and_eq_true, decide_eq_true_eq] at *
  omega

/-- An offset inside PMEM reaches PMEM (R46). -/
theorem target_pmem {p : Params} {a : Nat} (h : a < p.pmemBytes) : target p (0x1000000 + a) = .pmem a := by
  unfold target
  rw [if_neg (by omega), if_pos ⟨by omega, by omega⟩, Nat.add_sub_cancel_left]

/-! ### One step, turn by turn -/

theorem step_idle {s : State} (h : s.turns = []) : step s = .next (coreTurn s) := by
  simp [step, runTurn, h]

theorem step_core {s : State} {rest : List Turn} (h : s.turns = .core :: rest) :
    step s = .next (coreTurn (s.pass rest)) := by simp [step, runTurn, h]

theorem step_host {s : State} {a : Access} {rest : List Turn} (h : s.turns = .host a :: rest) :
    step s = hostAccess a (takeTurn a rest s) := by simp [step, runTurn, h]

theorem step_assertReset {s : State} {rest : List Turn} (h : s.turns = .assertReset :: rest) :
    step s = .next { s.advance rest with resetAsserted := true } := by simp [step, runTurn, h]

theorem step_releaseReset {s : State} {rest : List Turn} (h : s.turns = .releaseReset :: rest) :
    step s = .next (releaseTurn (s.pass rest)) := by simp [step, runTurn, h]

/-- A legal register write that is not to CMD (R48). -/
theorem hostAccess_regWrite {s : State} {r : RegName} (v : Word) (hr : r ≠ .cmd) (h : s.resetAsserted = false) :
    hostAccess (.write (regAddr s.params r) (.b32 v)) s = .next (regWrite v (s.respond .done) r) := by
  simp only [hostAccess, inWindow_regAddr, if_pos, h, windowOffset_regAddr, busWrite, target_regOffset,
    regOffset_aligned, registerWrite, regAt_regOffset]
  cases r <;> simp_all

/-- A CMD write issues its word (R27, R83). -/
theorem hostAccess_cmd {s : State} (w : Word) (h : s.resetAsserted = false) :
    hostAccess (commandWrite s.params w) s = issue w (s.respond .done) := by
  simp only [commandWrite, hostAccess, inWindow_regAddr, if_pos, h, windowOffset_regAddr, busWrite, target_regOffset,
    regOffset_aligned, registerWrite, regAt_regOffset]
  simp

/-- A legal register read (R48). -/
theorem hostAccess_regRead {s : State} (r : RegName) (h : s.resetAsserted = false) :
    hostAccess (.read (regAddr s.params r) .w32) s = .next (s.respond (.data (.b32 (regRead s r)))) := by
  simp [hostAccess, h, busRead, regOffset_aligned, registerRead]

/-- A legal read of pixel memory (R47, R49). -/
theorem hostAccess_pmemRead {s : State} {a : Nat} {w : Width} (h : s.resetAsserted = false) (hp : s.params.legal = true)
    (ha : pmemLegal s.params a w.bytes = true) :
    hostAccess (.read (pmemAddr s.params a) w) s = .next (s.respond (.data (pmemRead a w s))) := by
  have hw : 0 < w.bytes := by cases w <;> decide
  have hb : a + w.bytes ≤ s.params.pmemBytes := by
    unfold pmemLegal at ha
    simp_all
  have ht : a < s.params.pmemBytes := by omega
  have hz := pmemBytes_le hp
  simp [hostAccess, h, busRead, windowOffset_pmemAddr (p := s.params) (a := a) (by omega), target_pmem ht, ha]

/-- A byte outside the destination of a command in flight reads the same in two states with the same record, the same
pixel memory and the same epoch (R52, R62). -/
theorem hostByte_stable {s t : State} {a : Nat} (hi : t.inflight = s.inflight) (hm : t.pmem = s.pmem)
    (he : t.epoch = s.epoch) (ha : inDestination s a = false) : hostByte t a = hostByte s a := by
  have hb : inDestination t a = false := by simpa only [inDestination, hi] using ha
  simp [hostByte, ha, hb, hm, he]

/-- Everything an issue of a word can do. -/
theorem issue_cases (w : Word) (s : State) :
    (s.regs.busy = true ∧ issue w s = .next (commandLost s)) ∨
    (s.regs.busy = false ∧ ∃ op code, issue w s = .next (errorComplete op code s)) ∨
    (s.regs.busy = false ∧ ∃ op, checkImage s.params (snapshot op s.regs) = .ok ∧
      issue w s = .next (startCommand (snapshot op s.regs) s)) := by
  unfold issue
  split
  · rename_i i _
    rcases exec_cases i s with h | ⟨h, code, e⟩ | h
    · exact .inl h
    · exact .inr (.inl ⟨h, _, code, e⟩)
    · exact .inr (.inr h)
  · cases h : s.regs.busy
    · exact .inr (.inl ⟨rfl, opField w, .illegalCmd, by simp [illegalCommand, h]⟩)
    · exact .inl ⟨rfl, by simp [illegalCommand, h]⟩

/-- Everything a host access can do: stop outside the window; answer without a change of state; write a register other
than CMD; issue a word; or write pixel memory. -/
theorem hostAccess_cases (a : Access) (s : State) :
    hostAccess a s = .fault .outsideWindow ∨
    (∃ x, hostAccess a s = .next (s.respond x)) ∨
    (∃ v r, r ≠ RegName.cmd ∧ hostAccess a s = .next (regWrite v (s.respond .done) r)) ∨
    (∃ w, hostAccess a s = issue w (s.respond .done)) ∨
    (∃ off d, pmemLegal s.params off (Datum.width d).bytes = true ∧
      hostAccess a s = .next (pmemWrite off d (s.respond .done))) := by
  cases a with
  | read addr w =>
    unfold hostAccess
    dsimp only
    split
    · split
      · exact .inr (.inl ⟨_, rfl⟩)
      · refine .inr (.inl ?_)
        unfold busRead
        split
        · split
          · exact ⟨_, rfl⟩
          · exact ⟨_, rfl⟩
        · split
          · exact ⟨_, rfl⟩
          · exact ⟨_, rfl⟩
        · exact ⟨_, rfl⟩
    · exact .inl rfl
  | write addr d =>
    unfold hostAccess
    dsimp only
    split
    · split
      · exact .inr (.inl ⟨_, rfl⟩)
      · unfold busWrite
        split
        · split
          · split
            · unfold registerWrite
              split
              · exact .inr (.inl ⟨_, rfl⟩)
              · exact .inr (.inr (.inr (.inl ⟨_, rfl⟩)))
              · rename_i r hr _
                exact .inr (.inr (.inl ⟨_, _, hr, rfl⟩))
            · exact .inr (.inl ⟨_, rfl⟩)
          · exact .inr (.inl ⟨_, rfl⟩)
          · exact .inr (.inl ⟨_, rfl⟩)
        · split
          · rename_i hl
            exact .inr (.inr (.inr (.inr ⟨_, _, hl, rfl⟩)))
          · exact .inr (.inl ⟨_, rfl⟩)
        · exact .inr (.inl ⟨_, rfl⟩)
    · exact .inl rfl

end Sys2Proof.Machine
end

