-- ==== Sys2Proof/Laws/Results.lean ====
section
/-! SUPPORT. The commands' results: their length, and where their pixels land in memory (R91, R96). -/

namespace Sys2Proof.Machine

/-- The shape of a source image is its record's (R54, R85). -/
theorem sourceImage_shape {m : Memory} {f : Inflight} {i : SrcImage} (h : sourceImage m f = some i) :
    i.h = f.src.h ∧ i.w = f.src.w ∧ i.c = f.src.c ∧ i.px.length = f.src.size := by
  unfold sourceImage at h
  split at h
  · rename_i bs hbs
    cases h
    have := ((Memory.readBytes_eq_some _ _ _ _).1 hbs).1
    simp [this]
  · cases h

/-- The pixels of a source image are the bytes of its extent (R50, R94). -/
theorem sourceImage_pix {m : Memory} {f : Inflight} {i : SrcImage} (h : sourceImage m f = some i) {r c ch : Nat}
    (hr : r < f.src.h) (hc : c < f.src.w) (hch : ch < f.src.c) :
    Memory.read m (f.src.offset r c ch) = some (BitVec.ofNat 8 (i.pix r c ch)) := by
  obtain ⟨h1, h2, h3, _⟩ := sourceImage_shape h
  unfold sourceImage at h
  split at h
  · rename_i bs hbs
    cases h
    obtain ⟨hl, hb⟩ := (Memory.readBytes_eq_some _ _ _ _).1 hbs
    have hk := pixel_index_lt hr hc hch
    have h4 := hb _ hk
    have hlt : (r * f.src.w + c) * f.src.c + ch < bs.length := by rw [hl]; exact hk
    have e : f.src.offset r c ch = f.src.base + ((r * f.src.w + c) * f.src.c + ch) := by
      unfold Image.offset; omega
    rw [e, h4]
    simp [SrcImage.pix, List.getD_eq_getElem?_getD, hlt]
  · cases h

/-- A source all of whose bytes are specified has an image (R44). -/
theorem sourceImage_isSome {m : Memory} {f : Inflight}
    (h : ∀ a, f.src.contains a = true → (Memory.read m a).isSome = true) : (sourceImage m f).isSome = true := by
  have : ∀ (n a : Nat), (∀ x, a ≤ x → x < a + n → (Memory.read m x).isSome = true) →
      (Memory.readBytes m a n).isSome = true := by
    intro n
    induction n with
    | zero => intros; rfl
    | succ n ih =>
      intro a ha
      obtain ⟨b, hb⟩ := Option.isSome_iff_exists.1 (ha a (by omega) (by omega))
      obtain ⟨bs, hbs⟩ := Option.isSome_iff_exists.1 (ih (a + 1) fun x h1 h2 => ha x (by omega) (by omega))
      simp [Memory.readBytes, hb, hbs]
  have h2 := this f.src.size f.src.base fun x h1 h2 => h x ((contains_iff _ _).2 ⟨h1, h2⟩)
  obtain ⟨bs, hbs⟩ := Option.isSome_iff_exists.1 h2
  simp [sourceImage, hbs]

/-- A result has one pixel for each byte of the destination extent (R55, R96). -/
theorem resultPixels_length {p : Params} {f : Inflight} {m : Memory} {i : SrcImage} (hf : recordOk p f)
    (h : sourceImage m f = some i) : (resultPixels p f i).length = f.dst.size := by
  obtain ⟨hc, h1, h2, h3⟩ := hf
  obtain ⟨e1, e2, e3, _⟩ := sourceImage_shape h
  have ha := (checkImage_eq_ok hc).2.2.2.2.1
  have hs : f.dst.size = i.h * i.w * i.c := by
    rw [Image.size, h1, h2, h3, e1, e2, e3, cout_of_accepts ha]
  have h3' : f.op = .butter ∨ f.op = .wiener → i.c = 3 := by
    intro h; rw [e3]; rcases h with h | h <;> simpa [h, accepts] using ha
  unfold resultPixels
  rw [hs]
  split
  · simp [resultCstretch]
  · simp [resultGamma]
  · unfold resultHisteq; split <;> simp
  · rename_i ho; simp [resultButter, expand3, h3' (.inl ho)]
  · rename_i ho; simp [resultWiener, expand3, h3' (.inr ho)]
  · simp [resultMedian]

/-- The completion leaves every byte outside the destination extent alone (R55, R100). -/
theorem read_storeResult_outside {p : Params} {f : Inflight} {m : Memory} (hf : recordOk p f) {a : Nat}
    (h : f.dst.contains a = false) : Memory.read (storeResult p f m) a = Memory.read m a := by
  have h' : ¬ (f.dst.base ≤ a ∧ a < f.dst.base + f.dst.size) := by
    rw [← contains_iff, h]; simp
  unfold storeResult
  split
  · rename_i i hi
    apply Memory.read_writeBytes_outside
    simpa [resultPixels_length hf hi] using h'
  · rw [Memory.read_forget, if_neg h']

/-- The completion leaves a destination of unspecified bytes when a source byte is unspecified (R44). -/
theorem read_storeResult_unspecified {p : Params} {f : Inflight} {m : Memory} (hs : sourceImage m f = none) {a : Nat}
    (h : f.dst.contains a = true) : Memory.read (storeResult p f m) a = none := by
  rw [storeResult, hs]
  simp only
  rw [Memory.read_forget, if_pos ((contains_iff _ _).1 h)]

/-- The byte the completion leaves at a destination offset is the result's pixel of that index (R91). -/
theorem read_storeResult_inside {p : Params} {f : Inflight} {m : Memory} {i : SrcImage}
    (hi : sourceImage m f = some i) {k v : Nat} (hv : (resultPixels p f i)[k]? = some v) :
    Memory.read (storeResult p f m) (f.dst.base + k) = some (BitVec.ofNat 8 v) := by
  have hk : k < (resultPixels p f i).length := (List.getElem?_eq_some_iff.1 hv).1
  rw [storeResult, hi]
  simp only
  rw [Memory.read_writeBytes, if_pos ⟨by omega, by simpa using hk⟩]
  simp [hv]

/-- The completion keeps the canonical form. -/
theorem wf_storeResult {p : Params} {f : Inflight} {m : Memory} (h : Memory.wf m) : Memory.wf (storeResult p f m) := by
  unfold storeResult
  split
  · exact Memory.wf_writeBytes _ _ h
  · exact Memory.wf_forget _ _ h

/-- The completion lists no offset past the end of PMEM. -/
theorem inside_storeResult {p : Params} {f : Inflight} {m : Memory} (hf : recordOk p f)
    (h : ∀ x ∈ m, x.1 < p.pmemBytes) : ∀ x ∈ storeResult p f m, x.1 < p.pmemBytes := by
  intro x hx
  unfold storeResult at hx
  split at hx
  · rename_i i hi
    rcases Memory.mem_writeBytes hx with hx | hx
    · have h8 := (checkImage_eq_ok hf.1).2.2.2.2.2.2.2.1
      rw [List.length_map, resultPixels_length hf hi] at hx
      omega
    · exact h x hx
  · exact h x (Memory.mem_forget hx)

end Sys2Proof.Machine
end

