-- ==== Sys2Proof/Laws/Invariant.lean ====
section
/-! SUPPORT. Each shared operation keeps the invariant. -/

namespace Sys2Proof.Machine

theorem ErrCode.toBits_le (c : ErrCode) : c.toBits.toNat ≤ 6 := by cases c <;> decide

/-- The invariant reads only the parameters, the memory, BUSY, ERR_CODE and the record. -/
theorem State.Inv.congr {s t : State} (h : s.Inv) (hp : t.params = s.params) (hm : t.pmem = s.pmem)
    (hb : t.regs.busy = s.regs.busy) (hc : t.regs.errCode = s.regs.errCode) (hi : t.inflight = s.inflight) :
    t.Inv where
  params := by rw [hp]; exact h.params
  memory := by rw [hm]; exact h.memory
  inside := by rw [hm, hp]; exact h.inside
  busy := by rw [hb, hi]; exact h.busy
  code := by rw [hc]; exact h.code
  record := by rw [hi, hp]; exact h.record

theorem State.Inv.respond {s : State} (h : s.Inv) (x : Response) : (s.respond x).Inv := h.congr rfl rfl rfl rfl rfl

theorem State.Inv.takeTurn {s : State} (h : s.Inv) (a : Access) (rest : List Turn) :
    (Machine.takeTurn a rest s).Inv := h.congr (by simp) (by simp) (by simp) (by simp) (by simp)

theorem State.Inv.advance {s : State} (h : s.Inv) (rest : List Turn) : (s.advance rest).Inv :=
  h.congr rfl rfl rfl rfl rfl

theorem State.Inv.pass {s : State} (h : s.Inv) (rest : List Turn) : (s.pass rest).Inv :=
  h.congr rfl rfl rfl rfl rfl

theorem State.Inv.commandLost {s : State} (h : s.Inv) : (Machine.commandLost s).Inv := h.congr rfl rfl rfl rfl rfl

theorem State.Inv.errorComplete {s : State} (h : s.Inv) (op : BitVec 8) (code : ErrCode) :
    (Machine.errorComplete op code s).Inv where
  params := h.params
  memory := h.memory
  inside := h.inside
  busy := h.busy
  code := ErrCode.toBits_le code
  record := h.record

/-- A start of a command whose checks pass keeps the invariant (R89). -/
theorem State.Inv.startCommand {s : State} (h : s.Inv) {op : ImageOp}
    (hc : checkImage s.params (snapshot op s.regs) = .ok) :
    (Machine.startCommand (snapshot op s.regs) s).Inv where
  params := h.params
  memory := h.memory
  inside := h.inside
  busy := rfl
  code := h.code
  record := by
    intro f hf
    cases hf
    exact recordOk_snapshot hc

/-- A soft reset keeps the invariant (R146, R147). -/
theorem State.Inv.softReset {s : State} (h : s.Inv) : (Machine.softReset s).Inv where
  params := by simpa using h.params
  memory := by
    rw [softReset_pmem, abort_pmem]
    split
    · exact h.memory
    · exact Memory.wf_forget _ _ h.memory
  inside := by
    rw [softReset_pmem, abort_pmem, softReset_params]
    split
    · exact h.inside
    · exact fun x hx => h.inside x (Memory.mem_forget hx)
  busy := by simp [Regs.reset]
  code := by simp [Regs.reset]
  record := by simp

/-- A hard reset gives the invariant (R145). -/
theorem State.Inv.hardReset {s : State} (h : s.Inv) : (Machine.hardReset s).Inv where
  params := h.params
  memory := List.Pairwise.nil
  inside := by simp
  busy := rfl
  code := by simp [Regs.reset]
  record := by simp

/-- A register write keeps the invariant. -/
theorem State.Inv.regWrite {s : State} (h : s.Inv) (v : Word) (r : RegName) : (Machine.regWrite v s r).Inv := by
  cases r with
  | ctrl =>
    unfold Machine.regWrite writeCtrl
    dsimp only
    split
    · exact h.softReset
    · exact h.congr rfl rfl rfl rfl rfl
  | _ => exact h.congr rfl rfl rfl rfl rfl

theorem datumBytes_length (d : Datum) : (datumBytes d).length = d.width.bytes := by cases d <;> rfl

/-- A legal host write of pixel memory keeps the invariant (R49, R62). -/
theorem State.Inv.pmemWrite {s : State} (h : s.Inv) {a : Nat} {d : Datum}
    (hl : pmemLegal s.params a d.width.bytes = true) : (Machine.pmemWrite a d s).Inv := by
  cases hb : s.regs.busy
  · rw [pmemWrite_idle s a d hb]
    have hle : a + d.width.bytes ≤ s.params.pmemBytes := by
      simp only [pmemLegal, Bool.and_eq_true, decide_eq_true_eq] at hl
      exact hl.2
    refine ⟨h.params, Memory.wf_writeBytes _ _ h.memory, fun x hx => ?_, h.busy, h.code, h.record⟩
    rcases Memory.mem_writeBytes hx with hx | hx
    · rw [datumBytes_length] at hx
      show x.1 < s.params.pmemBytes
      omega
    · exact h.inside x hx
  · rw [pmemWrite_busy s a d hb]
    exact h.congr rfl rfl rfl rfl rfl

/-- The completion keeps the invariant (R91). -/
theorem State.Inv.complete {s : State} (h : s.Inv) : (Machine.complete s).Inv := by
  cases hi : s.inflight with
  | none => rw [complete_none s hi]; exact h
  | some f =>
    rw [complete_some s f hi]
    have hf := h.record f hi
    exact ⟨h.params, wf_storeResult h.memory, inside_storeResult hf h.inside, rfl, by simp, by simp⟩

/-- The core's turn keeps the invariant. -/
theorem State.Inv.coreTurn {s : State} (h : s.Inv) : (Machine.coreTurn s).Inv := by
  unfold Machine.coreTurn
  split
  · exact h
  · exact h.complete

end Sys2Proof.Machine
end

