-- ==== Sys2Proof/Laws/Numeric.lean ====
section
/-! SUPPORT. The integer rounding of Numeric.lean is R12's rounding of the real quotient. -/

namespace Sys2Proof.Machine

/-- `rneDiv` is R12's rne of the real quotient. -/
theorem rneDiv_eq_idealRne (a : Nat) {b : Nat} (hb : 0 < b) : (rneDiv a b : ℤ) = idealRne ((a : ℝ) / b) := by
  have hb' : (0 : ℝ) < b := by exact_mod_cast hb
  have hfloor : ⌊(a : ℝ) / b⌋ = ((a / b : ℕ) : ℤ) := by
    rw [← Nat.floor_div_eq_div (K := ℝ) a b, Int.natCast_floor_eq_floor (by positivity)]
  have hfrac : (a : ℝ) / b - ((a / b : ℕ) : ℝ) = ((a % b : ℕ) : ℝ) / b := by
    have h : (a : ℝ) = b * ((a / b : ℕ) : ℝ) + ((a % b : ℕ) : ℝ) := by exact_mod_cast (Nat.div_add_mod a b).symm
    rw [div_sub' hb'.ne']
    congr 1
    linarith
  have hlt : ((a % b : ℕ) : ℝ) / b < 1 / 2 ↔ 2 * (a % b) < b := by
    rw [div_lt_div_iff₀ hb' two_pos]
    constructor <;> intro h
    · have : ((2 * (a % b) : ℕ) : ℝ) < b := by push_cast at h ⊢; linarith
      exact_mod_cast this
    · have : ((2 * (a % b) : ℕ) : ℝ) < b := by exact_mod_cast h
      push_cast at this ⊢
      linarith
  have hgt : 1 / 2 < ((a % b : ℕ) : ℝ) / b ↔ b < 2 * (a % b) := by
    rw [div_lt_div_iff₀ two_pos hb']
    constructor <;> intro h
    · have : (b : ℝ) < ((2 * (a % b) : ℕ) : ℝ) := by push_cast at h ⊢; linarith
      exact_mod_cast this
    · have : (b : ℝ) < ((2 * (a % b) : ℕ) : ℝ) := by exact_mod_cast h
      push_cast at this ⊢
      linarith
  have heven : ((a / b : ℕ) : ℤ) % 2 = 0 ↔ a / b % 2 = 0 := by omega
  unfold idealRne rneDiv
  rw [hfloor, Int.cast_natCast, hfrac]
  simp only [hlt, hgt, heven]
  split_ifs <;> push_cast <;> rfl

end Sys2Proof.Machine
end

