-- ==== Sys2Proof/Laws/PerInstr.lean ====
section
/-! SUPPORT. Statements about every command as syntax, one lemma per constructor. -/

namespace Sys2Proof.Laws.Encoding

/-- R68, R70, R75: the command is well formed, its word is a well-formed word with reserved bits 0, and the word decodes
to the command, directly and as the opcode table numbers its bits. -/
def Statement (i : Sys2Proof.Instr) : Prop :=
  i.wellFormed = true ∧ Sys2Proof.wellFormedWord (Sys2Proof.encode i) = true ∧
    Sys2Proof.rsvField (Sys2Proof.encode i) = 0#24 ∧ Sys2Proof.decode (Sys2Proof.encode i) = .command i ∧
    Sys2Proof.decodeTableWord 32 (Sys2Proof.encode i).toNat = some i

theorem nop : Statement .nop := by unfold Statement; decide

theorem cstretch : Statement .cstretch := by unfold Statement; decide

theorem gamma : Statement .gamma := by unfold Statement; decide

theorem histeq : Statement .histeq := by unfold Statement; decide

theorem butter : Statement .butter := by unfold Statement; decide

theorem wiener : Statement .wiener := by unfold Statement; decide

theorem median : Statement .median := by unfold Statement; decide

end Sys2Proof.Laws.Encoding
end

