-- ==== Sys2Proof/Laws/Spectrum.lean ====
section
/-! SUPPORT. The free value of a frequency-domain pixel stays in the range R123 admits. -/

namespace Sys2Proof.Machine

/-- With FREQ_TOL = 0 "the output is exactly quant(x)" (R123): the free value has no room. -/
theorem freqPixel_exact {p : Params} (h : p.freqTolBelow = 0) (h' : p.freqTolAbove = 0) (op : BitVec 8)
    (g : List (List Nat)) (par : CommandPar) (n : Nat) (y : Frac) (r c : Nat) :
    freqPixel p op g par n y r c = quantMagnitude n y 0 p.freqTolDen := by
  simp [freqPixel, h, h']

/-- The pixel is never below the low end of the range (R123). -/
theorem le_freqPixel (p : Params) (op : BitVec 8) (g : List (List Nat)) (par : CommandPar) (n : Nat) (y : Frac)
    (r c : Nat) : quantMagnitude n y (-(p.freqTolBelow : Int)) p.freqTolDen ≤ freqPixel p op g par n y r c :=
  le_max_left _ _

/-- Nor above the high end, the range being no empty one (R123). -/
theorem freqPixel_le {p : Params} {n : Nat} {y : Frac}
    (h : quantMagnitude n y (-(p.freqTolBelow : Int)) p.freqTolDen ≤ quantMagnitude n y p.freqTolAbove p.freqTolDen)
    (op : BitVec 8) (g : List (List Nat)) (par : CommandPar) (r c : Nat) :
    freqPixel p op g par n y r c ≤ quantMagnitude n y p.freqTolAbove p.freqTolDen :=
  max_le h (min_le_left _ _)

end Sys2Proof.Machine
end

