-- ==== Sys2Proof/Tests/Slice0.lean ====
section
/-! SUPPORT. The model's own tests. Expected results are the spec's: the vectors and programs of 95_test_vectors.md
(L2, L3) and the examples in the rules. After them, for every obligation with hypotheses, a witness that meets them. -/

namespace Sys2Proof.Tests

open Sys2Proof Sys2Proof.Machine

/-! ### Well-formedness: one ill-formed term for each check -/

theorem test_wellFormed_commands :
    Instr.wellFormed .nop = true ∧ Instr.wellFormed .cstretch = true ∧ Instr.wellFormed .gamma = true ∧
    Instr.wellFormed .histeq = true ∧ Instr.wellFormed .butter = true ∧ Instr.wellFormed .wiener = true ∧
    Instr.wellFormed .median = true := by decide

/-- R77: a reserved bit set. -/
theorem test_wellFormedWord_refuses_reserved_bit : wellFormedWord 0x00000100#32 = false := by decide

/-- R76: the first reserved opcode. -/
theorem test_wellFormedWord_refuses_reserved_opcode : wellFormedWord 0x00000007#32 = false := by decide

/-- R70: the last command. -/
theorem test_wellFormedWord_accepts_median : wellFormedWord 0x00000006#32 = true := by decide

/-- R7: MAX_DIM is 1..65535. -/
theorem test_legal_refuses_maxDim :
    Params.legal { paramsAtReset with maxDim := 0 } = false ∧
    Params.legal { paramsAtReset with maxDim := 65536 } = false := by decide

/-- R7: PMEM_BYTES is 1024..16777216. -/
theorem test_legal_refuses_pmemKib :
    Params.legal { paramsAtReset with pmemKib := 0 } = false ∧
    Params.legal { paramsAtReset with pmemKib := 16385 } = false := by decide

/-- R7: FREQ_TOL is a number ≥ 0: a denominator, and an enclosure with something in it. -/
theorem test_legal_refuses_freqTol :
    Params.legal { paramsAtReset with freqTolDen := 0 } = false ∧
    Params.legal { paramsAtReset with freqTolBelow := 1 } = false := by decide

/-! ### Decoding: R75's words, bit by bit -/

theorem test_decode_nop : decode 0b00000000000000000000000000000000#32 = .command .nop := by decide

theorem test_decode_cstretch : decode 0b00000000000000000000000000000001#32 = .command .cstretch := by decide

theorem test_decode_gamma : decode 0b00000000000000000000000000000010#32 = .command .gamma := by decide

theorem test_decode_histeq : decode 0b00000000000000000000000000000011#32 = .command .histeq := by decide

theorem test_decode_butter : decode 0b00000000000000000000000000000100#32 = .command .butter := by decide

theorem test_decode_wiener : decode 0b00000000000000000000000000000101#32 = .command .wiener := by decide

theorem test_decode_median : decode 0b00000000000000000000000000000110#32 = .command .median := by decide

/-- R77: NOP's opcode with a reserved bit set is illegal, at both ends of RSV. -/
theorem test_decode_reserved_bits :
    decode 0b00000000000000000000000100000000#32 = .illegal .reservedBits ∧
    decode 0b10000000000000000000000000000000#32 = .illegal .reservedBits := by decide

/-- R76: both ends of the reserved opcodes. -/
theorem test_decode_reserved_opcodes :
    decode 0b00000000000000000000000000000111#32 = .illegal .reservedOpcode ∧
    decode 0b00000000000000000000000011111111#32 = .illegal .reservedOpcode := by decide

/-- R82. -/
theorem test_disassemble :
    disassemble 0x00000005#32 = "WIENER" ∧ disassemble 0xDEADBE07#32 = ".word 0xdeadbe07 ; illegal" := by decide

/-! ### Small states -/

/-- Registers for an H × W image of C channels at offset 0, with its result at 0x100. -/
def regsFor (h w c : Nat) : Regs :=
  { Regs.reset with
    dstBase := 0x100#24, dimH := BitVec.ofNat 16 h, dimW := BitVec.ofNat 16 w, fmtCh := BitVec.ofNat 3 c }

/-- The machine after reset with these registers and these bytes from offset 0 on. -/
def machine (r : Regs) (px : List Nat) : State :=
  { State.reset with regs := r, pmem := Memory.writeBytes 0 (px.map (BitVec.ofNat 8)) [] }

/-- The machine after the core's completion step, the command of `op` having been issued in `s`. -/
def completed (op : ImageOp) (s : State) : Option State := nextState (step { issued op s with turns := [.core] })

/-- The `n` result bytes. -/
def result (n : Nat) (o : Option State) : Option (List Nat) :=
  o.bind fun u => (Memory.readBytes u.pmem 0x100 n).map (List.map BitVec.toNat)

/-- The machine whose next turn is a host access. -/
def hosted (a : Access) (s : State) : State := { s with turns := [.host a] }

/-- The STATUS word after one step. -/
def statusAfter (s : State) : Option Word := (nextState (step s)).map fun u => u.regs.statusWord

/-! ### Results: one completion step each -/

/-- L2.3: [50, 100, 150] gives [0, 127, 255]. -/
theorem test_cstretch_floor :
    result 3 (completed .cstretch (machine (regsFor 1 3 1) [50, 100, 150])) = some [0, 127, 255] := by decide +kernel

/-- L3 program 1: channels apart, the third degenerate. -/
theorem test_cstretch_channels :
    result 6 (completed .cstretch (machine (regsFor 1 2 3) [10, 50, 77, 20, 150, 77])) =
      some [0, 0, 77, 255, 255, 77] := by decide +kernel

/-- C1, L3 program 2: G = 0x200 maps 64 to 128. -/
theorem test_gamma_two :
    result 1 (completed .gamma (machine { regsFor 1 1 1 with gammaG := 0x200#16 } [64])) = some [128] := by
  decide +kernel

/-- R103, corner cases: G = 1. -/
theorem test_gamma_least :
    gammaLut 1 248 = 0 ∧ gammaLut 1 250 = 2 ∧ gammaLut 1 254 = 93 ∧ gammaLut 1 255 = 255 := by decide +kernel

/-- L2.5: 42.5 is a tie and goes to the even 42. -/
theorem test_histeq_tie :
    result 7 (completed .histeq (machine (regsFor 1 7 1) [0, 10, 20, 20, 20, 20, 20])) =
      some [0, 42, 255, 255, 255, 255, 255] := by decide +kernel

/-- L2.5, the 1×4 colour image. -/
theorem test_histeq_colour :
    result 12 (completed .histeq (machine (regsFor 1 4 3) [0, 0, 0, 50, 100, 150, 100, 100, 100, 200, 180, 160])) =
      some [0, 0, 0, 111, 161, 211, 85, 85, 85, 255, 255, 240] := by decide +kernel

/-- L3 program 5. -/
theorem test_median_program :
    result 12 (completed .median (machine (regsFor 2 2 3) [9, 7, 1, 200, 7, 2, 30, 7, 3, 40, 7, 4])) =
      some [30, 7, 2, 40, 7, 2, 30, 7, 3, 40, 7, 3] := by decide +kernel

/-- L2.9: a corner replicated 9 times is no majority. -/
theorem test_median_corner :
    (resultMedian ⟨3, 3, 1, [255, 0, 0, 0, 0, 0, 0, 0, 0]⟩) = [0, 0, 0, 0, 0, 0, 0, 0, 0] := by decide +kernel

/-- L2.7 row 1: [0, 200] with CUT = 1, ORD = 1 gives exactly [50, 150]. -/
theorem test_butter_half_mask (c : Nat) (v : Nat) (h : (c = 0 ∧ v = 50) ∨ (c = 1 ∧ v = 150)) (par : CommandPar) :
    freqPixel paramsAtReset 0x04#8 [[0, 200]] par (rootOrder 1 2) (idft2 1 2 (butterSpectrum 1 2 [[0, 200]] 1 1) 0 c)
      0 c = v := by
  rw [freqPixel_exact rfl rfl]
  rcases h with ⟨rfl, rfl⟩ | ⟨rfl, rfl⟩ <;> decide +kernel

/-- L2.7: three columns, complex roots of unity: [10, 20, 30] gives [15, 20, 25]. -/
theorem test_butter_three :
    (List.range 3).map (fun c => quantMagnitude 3 (idft2 1 3 (butterSpectrum 1 3 [[10, 20, 30]] 1 1) 0 c) 0 1) =
      [15, 20, 25] := by decide +kernel

/-- L2.8: 200/(1 + np) at the default noise power truncates to 198. -/
theorem test_wiener_single (par : CommandPar) :
    freqPixel paramsAtReset 0x05#8 [[200]] par (rootOrder 1 1) (idft2 1 1 (wienerSpectrum 1 1 [[200]] 1 167772) 0 0)
      0 0 = 198 := by
  rw [freqPixel_exact rfl rfl]
  decide +kernel

/-- L2.8: k = H = W = 2, np = 1: all 50. -/
theorem test_wiener_mean :
    (List.range 2).map (fun r => (List.range 2).map fun c =>
      quantMagnitude 2 (idft2 2 2 (wienerSpectrum 2 2 [[0, 100], [200, 100]] 2 (2 ^ 24)) r c) 0 1) =
      [[50, 50], [50, 50]] := by decide +kernel

/-! ### Status words of L3's programs, one issue step each -/

/-- R93: NOP leaves DONE only. -/
theorem test_nop_status :
    statusAfter (hosted (commandWrite paramsAtReset 0x00000000#32) State.reset) = some 0x00000002#32 := by decide

/-- L3 program 2: G = 0. -/
theorem test_status_parameter :
    statusAfter (hosted (commandWrite paramsAtReset 0x00000002#32)
      (machine { regsFor 1 1 1 with gammaG := 0x0000#16 } [64])) = some 0x00020406#32 := by decide

/-- L3 program 2: opcode 7. -/
theorem test_status_illegal :
    statusAfter (hosted (commandWrite paramsAtReset 0x00000007#32) State.reset) = some 0x00070106#32 := by decide

/-- L3 program 4: the destination overlaps the source. -/
theorem test_status_aliased :
    statusAfter (hosted (commandWrite paramsAtReset 0x00000003#32)
      (machine { regsFor 1 4 1 with dstBase := 0x000002#24 } [3, 3, 3, 200])) = some 0x00030606#32 := by decide

/-- A word placed for the next step is the next step's command: CSTRETCH straight after reset fails with BAD_DIM (R29,
R86). -/
theorem test_withFetchWord :
    statusAfter (State.reset.withFetchWord 32 0x00000001) = some 0x00010206#32 := by decide

/-- L3 program 1: `wr32 PMEM+0x000, 0x144D320A` packs little-endian. -/
theorem test_wr32_little_endian :
    (nextState (step (hosted (scriptWr32 paramsAtReset 0 0x144D320A#32) State.reset))).map State.pmem =
      some [(0, 10#8), (1, 50#8), (2, 77#8), (3, 20#8)] := by decide

/-- R81: `img` and `ack` as L3's programs expand them. -/
theorem test_script_img :
    scriptImg paramsAtReset 0 0x100 1 2 3 ++ scriptAck paramsAtReset =
      [scriptWr paramsAtReset .srcBase 0x00000000#32, scriptWr paramsAtReset .dstBase 0x00000100#32,
        scriptWr paramsAtReset .dim 0x00010002#32, scriptWr paramsAtReset .fmt 0x00000003#32,
        scriptWr paramsAtReset .status 0x00000032#32] := by decide

/-- R81: DIM of `img` is "(H << 16) | W": with W = 0x10000 and H = 1 it is 0x00010000. -/
theorem test_script_img_wide :
    (scriptImg paramsAtReset 0 0x100 1 0x10000 3)[2]? = some (scriptWr paramsAtReset .dim 0x00010000#32) := by decide

/-- R52: reads and an idle core turn leave what unspecified bytes read as; a write does not. -/
theorem test_reads_keep_the_epoch :
    (nextState (core.run 3 { State.reset with turns := [.host (scriptRd8 paramsAtReset 9),
      .host (scriptRd paramsAtReset .status), .core] })).map State.epoch = some State.reset.epoch ∧
    (nextState (core.run 1 { State.reset with turns := [.host (scriptWr paramsAtReset .dim 0#32)] })).map State.epoch ≠
      some State.reset.epoch := by decide

/-! ### Witnesses: states and operands that meet the hypotheses of the obligations -/

/-- A 1×2 colour image at offset 0, a result at 0x100, and parameters every command accepts. -/
def ready : State := machine { regsFor 1 2 3 with wnK := 1#8 } [10, 50, 77, 20, 150, 77]

/-- The same with one gray channel. -/
def readyGray : State := machine { regsFor 1 2 1 with wnK := 1#8 } [10, 50]

/-- A command of `op` in flight, issued in `ready`. -/
def flying (op : ImageOp) : State := issued op ready

/-- With these turns to come. -/
def withTurns (ts : List Turn) (s : State) : State := { s with turns := ts }

theorem witness_Issuable (op : ImageOp) : Issuable op ready where
  idle := rfl
  rowsOk := by decide
  colsOk := by decide
  accepted := .inl rfl
  paramOk := by cases op <;> (unfold paramWrong; decide)
  srcFits := by decide
  dstFits := by decide
  apart := by decide

/-- R95: the gray form of the three contrast commands. -/
theorem witness_Issuable_gray (op : ImageOp) (h : op = .cstretch ∨ op = .gamma ∨ op = .histeq) :
    Issuable op readyGray where
  idle := rfl
  rowsOk := by decide
  colsOk := by decide
  accepted := .inr ⟨rfl, h⟩
  paramOk := by rcases h with rfl | rfl | rfl <;> (unfold paramWrong; decide)
  srcFits := by decide
  dstFits := by decide
  apart := by decide

/-- The source pixels of `ready`. -/
def readyPixels (_ c ch : Nat) : Nat := [10, 50, 77, 20, 150, 77].getD (c * 3 + ch) 0

theorem witness_SourceIs : SourceIs ready readyPixels := by
  intro r c ch hr hc hch
  have h1 : r < 1 := hr
  have h2 : c < 2 := hc
  have h3 : ch < 3 := hch
  interval_cases r; interval_cases c <;> interval_cases ch <;> decide

theorem witness_SourceIs_gray : SourceIs readyGray fun _ c _ => [10, 50].getD c 0 := by
  intro r c ch hr hc hch
  have h1 : r < 1 := hr
  have h2 : c < 2 := hc
  have h3 : ch < 1 := hch
  interval_cases r; interval_cases ch; interval_cases c <;> decide

theorem ready_check (op : ImageOp) : checkImage ready.params (snapshot op ready.regs) = .ok := by
  cases op <;> decide

theorem witness_Inv (op : ImageOp) (ts : List Turn) : (withTurns ts (flying op)).Inv where
  params := by
    show paramsAtReset.legal = true
    decide
  memory := by
    show Memory.wf ready.pmem
    decide
  inside := by
    show ∀ x ∈ ready.pmem, x.1 < paramsAtReset.pmemBytes
    decide
  busy := rfl
  code := by
    show (0#4 : BitVec 4).toNat ≤ 6
    decide
  record := by
    intro f hf
    cases hf
    exact ⟨by cases op <;> exact ready_check _, rfl, rfl, by cases op <;> rfl⟩

/-- A CMD write waits. -/
def cmdTurn (w : Word) : Turn := .host (commandWrite paramsAtReset w)

theorem witness_StepIssuesTheDecodedCommand :
    (withTurns [cmdTurn 6#32, .core] ready).turns =
      .host (.write ((withTurns [cmdTurn 6#32, .core] ready).params.baseWindow ++ 0x010#25) (.b32 6#32)) :: [.core] ∧
    ready.resetAsserted = false ∧ decode 6#32 = .command .median := by decide

/-- Both kinds of illegal word, each at its least value. -/
theorem witness_IllegalWordCompletesAtIssue (w : Word) (h : w = 0x100#32 ∨ w = 0x07#32) :
    (withTurns [cmdTurn w] ready).turns =
      .host (.write ((withTurns [cmdTurn w] ready).params.baseWindow ++ 0x010#25) (.b32 w)) :: [] ∧
    ready.resetAsserted = false ∧ ready.regs.busy = false ∧ (w.toNat / 256 ≠ 0 ∨ 7 ≤ w.toNat % 256) := by
  rcases h with rfl | rfl <;> decide

theorem witness_CommandWriteWhileBusyIsLost :
    (withTurns [cmdTurn 0#32] (flying .median)).turns =
      .host (.write ((withTurns [cmdTurn 0#32] (flying .median)).params.baseWindow ++ 0x010#25) (.b32 0#32)) :: [] ∧
    (flying .median).resetAsserted = false ∧ (flying .median).regs.busy = true := by decide

theorem witness_NopCompletesAtIssue : State.reset.regs.busy = false := by decide

theorem witness_PassingCommandStarts : Issuable .median ready ∧ Issuable .gamma readyGray :=
  ⟨witness_Issuable .median, witness_Issuable_gray .gamma (.inr (.inl rfl))⟩

/-- `FirstFailingCheckIsReported`, code 2 at its boundary: MAX_DIM + 1 columns. Here the code's equation is written out;
the witnesses for the other codes give the conditions that pick their branch. -/
theorem witness_FirstFailing_badDim :
    let s := machine (regsFor 1 1025 3) []
    s.regs.busy = false ∧ s.params.maxDim + 1 = cols s ∧
    (open Classical in
      (2#4 : BitVec 4) =
        (if rows s = 0 ∨ cols s = 0 ∨ s.params.maxDim < rows s ∨ s.params.maxDim < cols s then 2#4
        else if ¬ channelsAccepted .median s then 3#4
        else if paramWrong .median s then 4#4
        else if s.params.pmemBytes < s.regs.srcBase.toNat + imageSize s ∨
            s.params.pmemBytes < s.regs.dstBase.toNat + imageSize s then 5#4
        else if s.regs.srcBase.toNat < s.regs.dstBase.toNat + imageSize s ∧
            s.regs.dstBase.toNat < s.regs.srcBase.toNat + imageSize s then 6#4
        else 0#4)) ∧
    (2#4 : BitVec 4) ≠ 0#4 := by
  refine ⟨rfl, by decide, ?_, by decide⟩
  rw [if_pos (by decide)]

/-- Code 3: one channel for MEDIAN, every earlier check passed. -/
theorem witness_FirstFailing_channels :
    ¬ channelsAccepted .median readyGray ∧ 0 < rows readyGray ∧ 0 < cols readyGray ∧
    cols readyGray ≤ paramsAtReset.maxDim := by
  refine ⟨?_, by decide, by decide, by decide⟩
  unfold channelsAccepted
  decide

/-- Code 4 at its boundary: K = min(H, W) + 1. -/
theorem witness_FirstFailing_parameter :
    channelsAccepted .wiener (machine { regsFor 1 2 3 with wnK := 2#8 } []) ∧
    paramWrong .wiener (machine { regsFor 1 2 3 with wnK := 2#8 } []) := by
  constructor
  · exact .inl rfl
  · unfold paramWrong
    decide

/-- Code 5 at its boundary: the destination's last byte is the first past PMEM_BYTES. -/
theorem witness_FirstFailing_bounds :
    let s := machine { regsFor 1 1 3 with dstBase := 0x3FFFFE#24 } []
    channelsAccepted .median s ∧ ¬ paramWrong .median s ∧
    s.regs.dstBase.toNat + imageSize s = s.params.pmemBytes + 1 := by
  refine ⟨.inl rfl, ?_, by decide⟩
  unfold paramWrong
  decide

/-- Code 6 at its boundary: the destination starts at the source's last byte. -/
theorem witness_FirstFailing_aliased :
    let s := machine { regsFor 1 1 3 with dstBase := 2#24 } []
    channelsAccepted .median s ∧ ¬ paramWrong .median s ∧
    s.regs.srcBase.toNat + imageSize s ≤ s.params.pmemBytes ∧ s.regs.dstBase.toNat + imageSize s ≤ s.params.pmemBytes ∧
    s.regs.srcBase.toNat < s.regs.dstBase.toNat + imageSize s ∧
    s.regs.dstBase.toNat + 1 = s.regs.srcBase.toNat + imageSize s := by
  refine ⟨.inl rfl, ?_, by decide, by decide, by decide, by decide⟩
  unfold paramWrong
  decide

/-- The six result statements: `ready` meets them for every command. -/
theorem witness_results (op : ImageOp) :
    ready.resetAsserted = false ∧ Issuable op ready ∧ SourceIs ready readyPixels ∧ channels ready = 3 :=
  ⟨rfl, witness_Issuable op, witness_SourceIs, rfl⟩

theorem witness_HisteqEqualizesGray :
    readyGray.resetAsserted = false ∧ Issuable .histeq readyGray ∧
    SourceIs readyGray (fun _ c _ => [10, 50].getD c 0) ∧ channels readyGray = 1 :=
  ⟨rfl, witness_Issuable_gray .histeq (.inr (.inr rfl)), witness_SourceIs_gray, rfl⟩

/-- The last byte of the source extent is unspecified. -/
theorem witness_UnspecifiedSource :
    let s := machine { regsFor 1 2 3 with wnK := 1#8 } [10, 50, 77, 20, 150]
    s.resetAsserted = false ∧ s.regs.srcBase.toNat ≤ 5 ∧ 5 < s.regs.srcBase.toNat + imageSize s ∧
    Memory.read s.pmem 5 = none ∧ Issuable .median s :=
  ⟨rfl, by decide, by decide, by decide,
    { idle := rfl, rowsOk := by decide, colsOk := by decide, accepted := .inl rfl,
      paramOk := by
        unfold paramWrong
        decide
      srcFits := by decide, dstFits := by decide, apart := by decide }⟩

/-- Two states that differ in a register and in the turns to come, with the same record and the same source: the core moves
at the end of the list, and at its own turn before an access that waits. -/
theorem witness_ResultDepends :
    let s := withTurns [] (flying .median)
    let t := { s with turns := [.core, cmdTurn 0#32], regs := { s.regs with ovr := true } }
    s.Inv ∧ t.Inv ∧ s.params = t.params ∧ s.inflight = t.inflight ∧ s.inflight.isSome = true ∧ s ≠ t ∧
    s.pmem = t.pmem ∧ coreMoves s ∧ coreMoves t ∧ s.resetAsserted = false ∧ t.resetAsserted = false := by
  refine ⟨witness_Inv .median [], ?_, rfl, rfl, rfl, by decide, rfl, .inl rfl, .inr ⟨_, rfl⟩, rfl, rfl⟩
  have h := witness_Inv .median []
  exact ⟨h.params, h.memory, h.inside, h.busy, h.code, h.record⟩

/-- The bounds of `GammaLutIsTheRoundedPower` and `GammaLutProperties`, at both ends. -/
theorem witness_GammaLut : 1 ≤ 1 ∧ 255 ≤ 255 ∧ 256 < 65535 ∧ 0 ≤ 255 := by decide

theorem witness_StretchSpansTheFullRange : 254 < 255 ∧ 255 ≤ 255 := by decide

/-- The flat plane of 256 values. -/
theorem witness_EqualizationLutProperties :
    1 ≤ 1 ∧ (∀ y ∈ List.range 256, y ≤ 255) ∧ (∀ v ∈ List.range 256, (List.range 256).count v = 1) := by
  refine ⟨le_rfl, ?_, ?_⟩
  · intro y hy
    have := List.mem_range.1 hy
    omega
  · intro v hv
    exact List.count_eq_one_of_mem List.nodup_range hv

theorem witness_EqualizationLutProperties_constant :
    ([7, 7, 7, 7] : List Nat) ≠ [] ∧ (∀ z ∈ ([7, 7, 7, 7] : List Nat), z = 7) := by decide

/-- The bounds of `GrayPixelsStayGray`, at their greatest. -/
theorem witness_GrayPixelsStayGray : 255 ≤ 255 ∧ 2 < 3 := by decide

/-- R109, R110: pure blue, B = 255 and G = R = 0: Y = 29, Cr = 107, Cb = 255, each by the rule's arithmetic. -/
theorem test_chroma_blue : luma 255 0 0 = 29 ∧ chromaR 255 0 0 = 107 ∧ chromaB 255 0 0 = 255 := by decide

/-- R110: the way back at Y = 100 with chroma at both ends; 29049·127 + 8192 over 2^14 is 225, 22987·(−128) + 8192 over 2^14
is −180, both floors. -/
theorem test_fromYCrCb_saturates : fromYCrCb 100 0 255 0 = 255 ∧ fromYCrCb 100 0 255 2 = 0 := by decide

theorem witness_MedianIsMonotone (k : Nat) :
    (⟨1, 2, 1, [3, 4]⟩ : SrcImage).px.getD k 0 ≤ (⟨1, 2, 1, [3, 5]⟩ : SrcImage).px.getD k 0 := by
  rcases k with _ | _ | k <;> simp [List.getD]

theorem witness_ResultsAreWholePixels (op : ImageOp) :
    recordOk ready.params (snapshot op ready.regs) ∧ (sourceImage ready.pmem (snapshot op ready.regs)).isSome = true := by
  refine ⟨⟨by cases op <;> decide, rfl, rfl, rfl⟩, by cases op <;> decide⟩

/-- 1 − 3ζ at ζ = e^{iπ} = −1 is the real number 4. -/
theorem witness_CyclotomicSignIsExact : (Cyc.value 2 [1, -3]).im = 0 := by
  have h : cis (2 * Real.pi * (1 : ℕ) / (2 : ℕ)) = -1 := by
    unfold cis
    rw [show (2 * Real.pi * ((1 : ℕ) : ℝ) / ((2 : ℕ) : ℝ)) = Real.pi by push_cast; ring]
    exact Complex.exp_pi_mul_I
  simp only [Cyc.value, Finset.sum_range_succ, Finset.sum_range_zero, h]
  simp [Cyc.coef, cis]

/-- The bounds of the statements on the frequency-domain units, for a 1×2 image with a 1×1 kernel, at their least. -/
theorem witness_frequencyBounds :
    1 ≤ 1 ∧ 1 ≤ min 1 2 ∧ 0 < 1 ∧ 1 < 2 ∧ paramsAtReset.legal = true := by decide

/-- FREQ_TOL = 0, given by equal ends. -/
theorem witness_givesTolerance : paramsAtReset.legal = true ∧ givesTolerance paramsAtReset 0 := by
  have hl : freqTolLow paramsAtReset = 0 := by simp [freqTolLow, paramsAtReset]
  have hh : freqTolHigh paramsAtReset = 0 := by simp [freqTolHigh, paramsAtReset]
  refine ⟨by decide, hl.le, hh.ge, ?_⟩
  intros
  constructor <;> intros <;> exact ⟨by rw [hl], by rw [hh]⟩

/-- `EveryRealToleranceIsGiven`, at its least real number and at an irrational one. -/
theorem witness_EveryRealTolerance : paramsAtReset.legal = true ∧ (0 : ℝ) ≤ 0 ∧ 0 ≤ Real.sqrt 2 :=
  ⟨by decide, le_rfl, Real.sqrt_nonneg 2⟩

/-- The operand bounds under which `ButterPixelWithinTolerance` and `WienerPixelWithinTolerance` speak of a real FREQ_TOL, at
their greatest. -/
theorem witness_toleranceBounds :
    1024 ≤ paramsAtReset.maxDim ∧ 1 ≤ 65535 ∧ 1 ≤ 255 ∧ 255 ≤ min 1024 1024 ∧ 2 ^ 32 - 1 < 2 ^ 32 ∧
    planeAt [[255]] 0 0 ≤ 255 := by decide

/-- In flight, with a host read of STATUS to come: a step that leaves the record. -/
theorem witness_InputsFixedWhileInFlight :
    let s := withTurns [.host (scriptRd paramsAtReset .status)] (flying .median)
    s.Inv ∧ s.inflight.isSome = true ∧ ∃ s', step s = .next s' ∧ s'.inflight.isSome = true :=
  ⟨witness_Inv _ _, rfl, _, rfl, rfl⟩

/-- BUSY falls at the core's turn, and at a soft reset. -/
theorem witness_BusyFalls :
    (∃ s', step (withTurns [.core] (flying .median)) = .next s' ∧ s'.regs.busy = false) ∧
    (∃ s', step (withTurns [.host (scriptWr paramsAtReset .ctrl 2#32)] (flying .median)) = .next s' ∧
      s'.regs.busy = false) :=
  ⟨⟨_, rfl, rfl⟩, ⟨_, rfl, rfl⟩⟩

/-- `EveryStepKeepsTheInvariant` and `ParametersNeverChange`: a step that goes on, from a state with the invariant. -/
theorem witness_EveryStepKeepsTheInvariant :
    (withTurns [.core] (flying .butter)).Inv ∧ ∃ s', step (withTurns [.core] (flying .butter)) = .next s' :=
  ⟨witness_Inv _ _, _, rfl⟩

/-- DONE falls at a write of STATUS with bit 1. -/
theorem witness_DoneFalls :
    let s := withTurns [.host (scriptWr paramsAtReset .status 2#32)]
      { State.reset with regs := { Regs.reset with done := true } }
    s.regs.done = true ∧ ∃ s', step s = .next s' ∧ s'.regs.done = false :=
  ⟨rfl, _, rfl, rfl⟩

/-- OVR rises at a CMD write, and HAZ at a PMEM write, while a command is in flight. -/
theorem witness_HazardsRecord :
    (nextState (step (withTurns [cmdTurn 0#32] (flying .median)))).map (fun u => u.regs.ovr) = some true ∧
    (nextState (step (withTurns [.host (scriptWr8 paramsAtReset 0 0xFF#8)] (flying .median)))).map
      (fun u => u.regs.haz) = some true := by decide

/-- A read, a CMD write and a write of IE without a soft reset wait before the core's turn. -/
theorem witness_CommandInFlightCompletes :
    let s := withTurns [.host (scriptRd paramsAtReset .status), cmdTurn 0#32, .host (scriptWr paramsAtReset .ctrl 1#32),
      .core] (flying .median)
    s.Inv ∧ s.inflight.isSome = true ∧ s.resetAsserted = false ∧ ∀ t ∈ s.turns, t.harmless s.params := by
  refine ⟨witness_Inv _ _, rfl, rfl, ?_⟩
  intro t ht
  have h : t = .host (scriptRd paramsAtReset .status) ∨ t = cmdTurn 0#32 ∨
      t = .host (scriptWr paramsAtReset .ctrl 1#32) ∨ t = .core := by simpa [withTurns] using ht
  rcases h with rfl | rfl | rfl | rfl
  · exact (by decide : (regAddr paramsAtReset .status).toNat / 2 ^ 25 = paramsAtReset.baseWindow.toNat)
  · refine ⟨by decide, fun v _ hc => ?_⟩
    exact absurd hc (by decide)
  · refine ⟨by decide, fun v hv _ => ?_⟩
    cases hv
    decide
  · trivial

theorem witness_SoftReset :
    let s := withTurns [.host (scriptWr paramsAtReset .ctrl 3#32)] (flying .median)
    s.turns = .host (.write (s.params.baseWindow ++ 0x008#25) (.b32 3#32)) :: [] ∧ s.resetAsserted = false ∧
    (3#32 : Word).getLsbD 1 = true := by decide

/-- The assertion with a command in flight, and the release with and without an assertion. -/
theorem witness_HardReset :
    (withTurns [.assertReset] (flying .median)).turns = .assertReset :: [] ∧
    (withTurns [.releaseReset] { ready with resetAsserted := true }).turns = .releaseReset :: [] ∧
    (withTurns [.releaseReset] { ready with resetAsserted := true }).resetAsserted = true ∧
    (withTurns [.releaseReset] ready).turns = .releaseReset :: [] ∧ ready.resetAsserted = false := by decide

/-- R145: a run through both edges: asserted after the first, reset after the second, the command in flight gone. -/
theorem test_hard_reset_run :
    let s := withTurns [.assertReset, .core, .releaseReset] (flying .median)
    (nextState (core.run 1 s)).map State.resetAsserted = some true ∧
    (nextState (core.run 3 s)).map (fun u => (u.resetAsserted, u.regs, u.pmem, u.inflight)) =
      some (false, Regs.reset, [], none) := by decide

/-- A read, a write, a core turn and no turn with the reset input asserted; the last with a command in flight too. -/
theorem witness_AccessesIgnored (a : Access) (h : a = scriptRd paramsAtReset .id ∨ a = scriptWr8 paramsAtReset 0 1#8) :
    (withTurns [.host a] { ready with resetAsserted := true }).resetAsserted = true ∧
    (withTurns [.host a] { ready with resetAsserted := true }).turns = .host a :: [] ∧
    (withTurns [.core] { ready with resetAsserted := true }).turns = .core :: [] ∧
    (withTurns [] { flying .median with resetAsserted := true }).turns = [] ∧
    (withTurns [] { flying .median with resetAsserted := true }).inflight.isSome = true ∧
    match a with
    | .read addr _ => addr.toNat / 2 ^ 25 = paramsAtReset.baseWindow.toNat
    | .write addr _ => addr.toNat / 2 ^ 25 = paramsAtReset.baseWindow.toNat := by
  refine ⟨rfl, rfl, rfl, rfl, rfl, ?_⟩
  rcases h with rfl | rfl
  · exact (by decide : (regAddr paramsAtReset .id).toNat / 2 ^ 25 = paramsAtReset.baseWindow.toNat)
  · exact (by decide : (pmemAddr paramsAtReset 0).toNat / 2 ^ 25 = paramsAtReset.baseWindow.toNat)

/-- A field narrower than its register, written with every bit set, then read. -/
theorem witness_ParameterRegistersReadBack :
    let s := withTurns [.host (scriptWr paramsAtReset .fmt 0xFFFFFFFF#32), .host (scriptRd paramsAtReset .fmt)] ready
    storedAs 0xFFFFFFFF#32 s.regs .fmt = some ({ s.regs with fmtCh := 7#3 }, 7#32) ∧
    s.turns = .host (.write (s.params.baseWindow ++ tabledOffset .fmt) (.b32 0xFFFFFFFF#32)) ::
      .host (.read (s.params.baseWindow ++ tabledOffset .fmt) .w32) :: [] ∧
    s.resetAsserted = false := by decide

/-- The read clause, at the two-field register: H = 1 and W = 2. -/
theorem witness_ParameterRegistersReadBack_read :
    let s := withTurns [.host (scriptRd paramsAtReset .dim)] ready
    fieldWord s.regs .dim = some 0x00010002 ∧
    s.turns = .host (.read (s.params.baseWindow ++ tabledOffset .dim) .w32) :: [] ∧ s.resetAsserted = false := by decide

/-- The registers after a host write of `v` at platform address `addr`, BASE_ADDR being 0. -/
def regsAfter (addr : BitVec 32) (v : Word) : Option Regs :=
  (nextState (step (hosted (.write addr (.b32 v)) State.reset))).map State.regs

/-- R17, R28 to R31: the image registers by their numbers; R30: H is DIM's high half. -/
theorem test_image_register_offsets :
    regsAfter 0x014#32 9#32 = some { Regs.reset with srcBase := 9#24 } ∧
    regsAfter 0x018#32 9#32 = some { Regs.reset with dstBase := 9#24 } ∧
    regsAfter 0x01C#32 0x00020003#32 = some { Regs.reset with dimH := 2#16, dimW := 3#16 } ∧
    regsAfter 0x020#32 1#32 = some { Regs.reset with fmtCh := 1#3 } := by decide

/-- R17, R32 to R36: the parameter registers by their numbers. -/
theorem test_parameter_register_offsets :
    regsAfter 0x024#32 9#32 = some { Regs.reset with gammaG := 9#16 } ∧
    regsAfter 0x028#32 9#32 = some { Regs.reset with bwCut := 9#16 } ∧
    regsAfter 0x02C#32 9#32 = some { Regs.reset with bwOrd := 9#8 } ∧
    regsAfter 0x030#32 9#32 = some { Regs.reset with wnK := 9#8 } ∧
    regsAfter 0x034#32 9#32 = some { Regs.reset with wnNp := 9#32 } := by decide

theorem witness_StatusWordLayout :
    let s := withTurns [.host (scriptRd paramsAtReset .status)] ready
    s.turns = .host (.read (s.params.baseWindow ++ 0x00C#25) .w32) :: [] ∧ s.resetAsserted = false := by decide

theorem witness_StatusWriteClearsOnlyItsBits :
    let s := withTurns (scriptAck paramsAtReset |>.map .host) ready
    s.turns = .host (.write (s.params.baseWindow ++ 0x00C#25) (.b32 0x32#32)) :: [] ∧ s.resetAsserted = false := by
  decide

/-- Both registers, read and written. -/
theorem witness_IdAndCapsAreConstant (r : RegName) (h : r = .id ∨ r = .caps) :
    paramsAtReset.legal = true ∧
    (withTurns [.host (scriptRd paramsAtReset r)] ready).turns =
      .host (.read (paramsAtReset.baseWindow ++ tabledOffset r) .w32) :: [] ∧
    (withTurns [.host (scriptWr paramsAtReset r 0#32)] ready).turns =
      .host (.write (paramsAtReset.baseWindow ++ tabledOffset r) (.b32 0#32)) :: [] := by
  rcases h with rfl | rfl <;> decide

/-- Both ends of the unlisted offsets. -/
theorem witness_UnlistedOffsetsReadZero (off : BitVec 25) (h : off = 0x038#25 ∨ off = 0xFFC#25) :
    0x038 ≤ off.toNat ∧ off.toNat ≤ 0xFFC ∧ off.toNat % 4 = 0 := by
  rcases h with rfl | rfl <;> decide

/-- IE written 1 without a soft reset, and DONE acknowledged. -/
theorem witness_InterruptFollows :
    (1#32 : Word).getLsbD 1 = false ∧ (2#32 : Word).getLsbD 1 = true ∧
    (withTurns [.host (scriptWr paramsAtReset .ctrl 1#32)] ready).turns =
      .host (.write (paramsAtReset.baseWindow ++ 0x008#25) (.b32 1#32)) :: [] ∧
    (withTurns [.host (scriptWr paramsAtReset .status 2#32)] ready).turns =
      .host (.write (paramsAtReset.baseWindow ++ 0x00C#25) (.b32 2#32)) :: [] := by decide

/-- CTRL read, CTRL written with SRST = 0 and with SRST = 1 and read after it, CMD read. -/
theorem witness_CtrlAndCmdRead :
    (withTurns [.host (scriptRd paramsAtReset .ctrl)] ready).turns =
      .host (.read (ready.params.baseWindow ++ 0x008#25) .w32) :: [] ∧
    (∀ v : Word, (withTurns [.host (scriptWr paramsAtReset .ctrl v), .host (scriptRd paramsAtReset .ctrl)] ready).turns =
      .host (.write (ready.params.baseWindow ++ 0x008#25) (.b32 v)) ::
        .host (.read (ready.params.baseWindow ++ 0x008#25) .w32) :: []) ∧
    (withTurns [.host (scriptRd paramsAtReset .cmd)] ready).turns =
      .host (.read (ready.params.baseWindow ++ 0x010#25) .w32) :: [] ∧ ready.resetAsserted = false :=
  ⟨rfl, fun _ => rfl, rfl, rfl⟩

/-- R21: IE written 1 reads 1, and every other bit 0; with SRST = 1 the IE of the same write is discarded. -/
theorem test_ctrl_reads_ie (v x : Word) (h : (v = 0xFFFFFFFD#32 ∧ x = 1#32) ∨ (v = 0xFFFFFFFF#32 ∧ x = 0#32)) :
    (nextState (core.run 2 (withTurns [.host (scriptWr paramsAtReset .ctrl v), .host (scriptRd paramsAtReset .ctrl)]
      ready))).bind State.resp = some (.data (.b32 x)) := by
  rcases h with ⟨rfl, rfl⟩ | ⟨rfl, rfl⟩ <;> decide

/-- Every kind of bus error at the ends of its range: a byte register access, a misaligned word at the end of the register
window, both ends of the reserved range, a misaligned PMEM access, the first byte past PMEM. -/
theorem witness_isBusError :
    isBusError paramsAtReset 0x000 1 ∧ isBusError paramsAtReset 0xFFE 4 ∧ isBusError paramsAtReset 0x1000 4 ∧
    isBusError paramsAtReset 0xFFFFFF 1 ∧ isBusError paramsAtReset 0x1000001 2 ∧
    isBusError paramsAtReset 0x1400000 1 ∧ ¬ isBusError paramsAtReset 0xFFC 4 ∧
    ¬ isBusError paramsAtReset 0x13FFFFF 1 := by
  unfold isBusError
  refine ⟨?_, ?_, ?_, ?_, ?_, ?_, ?_, ?_⟩ <;> decide

theorem witness_BusErrorChangesNothing :
    let a : Access := .read (paramsAtReset.baseWindow ++ 0x1000#25) .w32
    (withTurns [.host a] ready).turns = .host a :: [] ∧ ready.resetAsserted = false ∧
    isBusError ready.params (0x1000#25 : BitVec 25).toNat Width.w32.bytes := by
  refine ⟨rfl, rfl, ?_⟩
  unfold isBusError
  decide

/-- A 32-bit write to the last word of PMEM, with nothing in flight and with a command in flight. -/
theorem witness_PixelWrite (s : State) (h : s = ready ∨ s = flying .median) :
    s.resetAsserted = false ∧ s.params.legal = true ∧ s.regs.busy = decide (s ≠ ready) ∧
    0x3FFFFC % (Datum.b32 1#32).width.bytes = 0 ∧ 0x3FFFFC + (Datum.b32 1#32).width.bytes ≤ s.params.pmemBytes ∧
    (withTurns [.host (scriptWr32 paramsAtReset 0x3FFFFC 1#32)] s).turns =
      .host (.write (pmemAddr s.params 0x3FFFFC) (.b32 1#32)) :: [] := by
  rcases h with rfl | rfl <;> decide

/-- A read of specified bytes outside the destination of the command in flight. -/
theorem witness_PixelRead :
    let s := withTurns [.host (scriptRd32 paramsAtReset 0)] (flying .median)
    s.turns = .host (.read (pmemAddr s.params 0) .w32) :: [] ∧ s.resetAsserted = false ∧ s.params.legal = true ∧
    0 + Width.w32.bytes ≤ s.params.pmemBytes ∧
    (∀ k, k < Width.w32.bytes → Memory.read s.pmem (0 + k) = some (([10#8, 50#8, 77#8, 20#8] : List Byte).getD k 0#8)) ∧
    (∀ f, s.inflight = some f → ∀ k, k < Width.w32.bytes →
      ¬ (f.dst.base ≤ 0 + k ∧ 0 + k < f.dst.base + f.dst.size)) := by
  refine ⟨by decide, rfl, by decide, by decide, by decide, ?_⟩
  intro f hf k hk
  cases hf
  have h1 : k < 4 := hk
  intro h
  have h2 : 256 ≤ 0 + k := h.1
  omega

/-- A word of which two bytes are specified, and a destination byte of the command in flight. -/
theorem witness_EveryLegalReadAnswers :
    let s := withTurns [.host (scriptRd32 paramsAtReset 4)] (flying .median)
    s.turns = .host (.read (pmemAddr s.params 4) .w32) :: [] ∧ s.resetAsserted = false ∧ s.params.legal = true ∧
    4 % Width.w32.bytes = 0 ∧ 4 + Width.w32.bytes ≤ s.params.pmemBytes ∧ Memory.read s.pmem 5 = some 77#8 ∧
    Memory.read s.pmem 6 = none ∧ s.inflight.any (fun f => f.dst.contains 0x100) = true := by decide

/-- Two reads of an unspecified byte, with a read and an idle core turn in between. -/
theorem witness_ReadsHaveNoSideEffect :
    let a : Access := scriptRd8 paramsAtReset 9
    let mid : List Turn := [.host (scriptRd paramsAtReset .status), .core]
    let s := withTurns (.host a :: mid ++ [.host a]) ready
    s.turns = .host a :: (mid ++ .host a :: []) ∧ s.resetAsserted = false ∧ (∃ u, step s = .next u) ∧
    (∀ t ∈ mid, t.quiet s) ∧ s.inflight = none := by
  refine ⟨rfl, rfl, ⟨_, rfl⟩, ?_, rfl⟩
  intro t ht
  have h : t = .host (scriptRd paramsAtReset .status) ∨ t = .core := by simpa using ht
  rcases h with rfl | rfl
  · exact (by decide : (regAddr paramsAtReset .status).toNat / 2 ^ 25 = paramsAtReset.baseWindow.toNat)
  · exact (rfl : ready.inflight = none)

/-- The same while BUSY = 1: the last byte before the destination of the command in flight. -/
theorem witness_ReadsHaveNoSideEffect_busy :
    let s := withTurns [.host (scriptRd8 paramsAtReset 0xFF), .host (scriptRd8 paramsAtReset 0xFF)] (flying .median)
    s.turns = .host (.read (pmemAddr paramsAtReset 0xFF) .w8) ::
      ([] ++ .host (.read (pmemAddr paramsAtReset 0xFF) .w8) :: []) ∧ s.resetAsserted = false ∧
    (∃ u, step s = .next u) ∧
    ∀ f, s.inflight = some f → ∀ k, k < Width.w8.bytes →
      ¬ (0x1000000 + f.dst.base ≤ (pmemAddr paramsAtReset 0xFF).toNat % 2 ^ 25 + k ∧
        (pmemAddr paramsAtReset 0xFF).toNat % 2 ^ 25 + k < 0x1000000 + f.dst.base + f.dst.size) := by
  refine ⟨rfl, rfl, ⟨_, rfl⟩, ?_⟩
  intro f hf k hk
  cases hf
  have h1 : k < 1 := hk
  interval_cases k
  decide

theorem witness_IdleCoreDoesNothing : ready.turns = [] ∧ ready.inflight = none := by decide

end Sys2Proof.Tests
end

section
/-! SUPPORT. What every step of every agent keeps (R57): a predicate that each shared operation keeps is kept by a step,
whoever takes it. The invariant of the machine and the launch parameters are two such predicates. -/

namespace Sys2Proof.Machine

/-- A predicate on states that each operation a step is made of keeps. -/
structure KeptByOperations (P : State → Prop) : Prop where
  pass : ∀ {s}, P s → ∀ rest, P (s.pass rest)
  takeTurn : ∀ {s}, P s → ∀ a rest, P (takeTurn a rest s)
  assertReset : ∀ {s}, P s → ∀ rest, P { s.advance rest with resetAsserted := true }
  hardReset : ∀ {s}, P s → P (hardReset s)
  coreTurn : ∀ {s}, P s → P (coreTurn s)
  respond : ∀ {s}, P s → ∀ x, P (s.respond x)
  regWrite : ∀ {s}, P s → ∀ v r, P (regWrite v s r)
  pmemWrite : ∀ {s}, P s → ∀ a d, pmemLegal s.params a (Datum.width d).bytes = true → P (pmemWrite a d s)
  commandLost : ∀ {s}, P s → P (commandLost s)
  errorComplete : ∀ {s}, P s → ∀ op code, P (errorComplete op code s)
  startCommand : ∀ {s}, P s → ∀ op, checkImage s.params (snapshot op s.regs) = .ok →
    P (startCommand (snapshot op s.regs) s)

section
variable {P : State → Prop} {s s' : State}

/-- The issue of a word keeps what the operations keep (R83). -/
theorem KeptByOperations.issue (k : KeptByOperations P) (h : P s) {w : Word}
    (e : Machine.issue w s = .next s') : P s' := by
  rcases issue_cases w s with ⟨-, he⟩ | ⟨-, op, code, he⟩ | ⟨-, op, hc, he⟩ <;> cases he.symm.trans e
  · exact k.commandLost h
  · exact k.errorComplete h op code
  · exact k.startCommand h _ hc

/-- A host access keeps what the operations keep (R57). -/
theorem KeptByOperations.hostAccess (k : KeptByOperations P) (h : P s) {a : Access}
    (e : Machine.hostAccess a s = .next s') : P s' := by
  rcases hostAccess_cases a s with he | ⟨x, he⟩ | ⟨v, r, -, he⟩ | ⟨w, he⟩ | ⟨off, d, hl, he⟩
  · cases he.symm.trans e
  · cases he.symm.trans e
    exact k.respond h x
  · cases he.symm.trans e
    exact k.regWrite (k.respond h _) v r
  · exact k.issue (k.respond h _) (he.symm.trans e)
  · cases he.symm.trans e
    exact k.pmemWrite (k.respond h _) _ _ hl

/-- The release of the reset input keeps what the operations keep (R145). -/
theorem KeptByOperations.releaseTurn (k : KeptByOperations P) (h : P s) : P (Machine.releaseTurn s) := by
  unfold Machine.releaseTurn
  split
  · exact k.hardReset h
  · exact h

/-- A step of any agent keeps what the operations keep. -/
theorem KeptByOperations.step (k : KeptByOperations P) (h : P s) (e : Machine.step s = .next s') : P s' := by
  cases ht : s.turns with
  | nil =>
    cases (step_idle ht).symm.trans e
    exact k.coreTurn h
  | cons t rest =>
    cases t with
    | host a => exact k.hostAccess (k.takeTurn h a rest) ((step_host ht).symm.trans e)
    | core =>
      cases (step_core ht).symm.trans e
      exact k.coreTurn (k.pass h rest)
    | assertReset =>
      cases (step_assertReset ht).symm.trans e
      exact k.assertReset h rest
    | releaseReset =>
      cases (step_releaseReset ht).symm.trans e
      exact k.releaseTurn (k.pass h rest)

end

/-- Each operation keeps the invariant. -/
theorem State.Inv.keptByOperations : KeptByOperations State.Inv where
  pass h rest := h.pass rest
  takeTurn h a rest := h.takeTurn a rest
  assertReset h _ := h.congr rfl rfl rfl rfl rfl
  hardReset h := h.hardReset
  coreTurn h := h.coreTurn
  respond h x := h.respond x
  regWrite h v r := h.regWrite v r
  pmemWrite h _ _ hl := h.pmemWrite hl
  commandLost h := h.commandLost
  errorComplete h op code := h.errorComplete op code
  startCommand h _ hc := h.startCommand hc

/-- Settles O34: a step is made of operations that each keep the invariant. -/
theorem everyStepKeepsTheInvariant : Obligations.EveryStepKeepsTheInvariant :=
  fun _ _ h e => State.Inv.keptByOperations.step h e

@[simp] theorem coreTurn_params (s : State) : (coreTurn s).params = s.params := by
  unfold coreTurn
  split
  · rfl
  · exact complete_params s

@[simp] theorem regWrite_params (v : Word) (s : State) (r : RegName) : (regWrite v s r).params = s.params := by
  cases r with
  | ctrl =>
    unfold regWrite writeCtrl
    dsimp only
    split
    · exact softReset_params s
    · rfl
  | _ => rfl

/-- Each operation keeps the launch parameters (R7). -/
theorem params_keptByOperations (p : Params) : KeptByOperations fun s => s.params = p where
  pass h _ := h
  takeTurn h a rest := (takeTurn_params _ a rest).trans h
  assertReset h _ := h
  hardReset h := h
  coreTurn h := (coreTurn_params _).trans h
  respond h _ := h
  regWrite h v r := (regWrite_params v _ r).trans h
  pmemWrite h _ _ _ := (pmemWrite_params _ _ _).trans h
  commandLost h := h
  errorComplete h _ _ := h
  startCommand h _ _ := h

/-- Settles O37: no operation writes the parameters. -/
theorem parametersNeverChange : Obligations.ParametersNeverChange :=
  fun s _ e => (params_keptByOperations s.params).step rfl e

/-- The machine right after reset meets the invariant. -/
theorem State.Inv.resetWith {p : Params} (h : p.legal = true) : (State.resetWith p).Inv where
  params := h
  memory := Memory.wf_resetWith p
  inside := by simp [State.resetWith]
  busy := rfl
  code := by simp [State.resetWith, Regs.reset]
  record := by simp [State.resetWith]

/-- Settles O35: reset leaves no memory, no record and no error code. -/
theorem resetHoldsTheInvariant : Obligations.ResetHoldsTheInvariant :=
  ⟨fun _ h => .resetWith h, .resetWith (by decide)⟩

end Sys2Proof.Machine
end

section
/-! SUPPORT. How an accepted command runs (R83, R85, R89, R91): its issue starts it, and the core's turn stores the result
of the source image that the registers name. -/

namespace Sys2Proof.Machine

/-- The channel counts of `channelsAccepted` are those of R95. -/
theorem accepts_of_channelsAccepted {op : ImageOp} {s : State} (h : channelsAccepted op s) :
    accepts op (channels s) = true := by
  rcases h with h | ⟨h, rfl | rfl | rfl⟩
  · rw [h]
    cases op <;> rfl
  all_goals rw [h]; rfl

/-- Parameters that are not wrong by the registers pass R97's check. -/
theorem paramBad_snapshot {op : ImageOp} {s : State} (h : ¬ paramWrong op s) :
    paramBad (snapshot op s.regs) = false := by
  unfold paramBad
  cases op with
  | cstretch => rfl
  | histeq => rfl
  | median => rfl
  | gamma => simpa [paramWrong, snapshot, commandPar, BitVec.toNat_eq] using h
  | butter => simpa [paramWrong, snapshot, commandPar, BitVec.toNat_eq] using h
  | wiener => simpa [paramWrong, snapshot, commandPar, rows, cols, BitVec.toNat_eq, and_assoc] using h

section
variable {op : ImageOp} {s : State}

/-- The record that an accepted command takes is the snapshot of R85. -/
theorem issued_eq_startCommand (h : channelsAccepted op s) :
    issued op s = startCommand (snapshot op s.regs) s := by
  have hc : cout op s.regs.fmtCh.toNat = s.regs.fmtCh.toNat := cout_of_accepts (accepts_of_channelsAccepted h)
  simp [issued, startCommand, snapshot, hc, Regs.start, commandPar, rows, cols, channels]

/-- The source of the snapshot has the registers' size. -/
theorem snapshot_src_size : (snapshot op s.regs).src.size = imageSize s := rfl

/-- So has the destination, for an accepted channel count. -/
theorem snapshot_dst_size (h : channelsAccepted op s) : (snapshot op s.regs).dst.size = imageSize s := by
  have hc : cout op s.regs.fmtCh.toNat = s.regs.fmtCh.toNat := cout_of_accepts (accepts_of_channelsAccepted h)
  simp [snapshot, Image.size, imageSize, hc, rows, cols, channels]

/-- A command that meets the register conditions passes the checks of R86. -/
theorem Issuable.checkImage_ok (h : Issuable op s) : checkImage s.params (snapshot op s.regs) = .ok := by
  refine checkImage_ok_of h.rowsOk.1 h.colsOk.1 h.rowsOk.2 h.colsOk.2 (accepts_of_channelsAccepted h.accepted)
    (paramBad_snapshot h.paramOk) h.srcFits ?_ ?_
  · rw [snapshot_dst_size h.accepted]
    exact h.dstFits
  · have hapart := h.apart
    unfold Image.overlap
    rw [snapshot_src_size, snapshot_dst_size h.accepted, Bool.and_eq_false_iff, decide_eq_false_iff_not,
      decide_eq_false_iff_not]
    simp only [snapshot]
    omega

/-- A command that meets the register conditions starts (R89). -/
theorem Issuable.exec_eq (h : Issuable op s) : exec (imageInstr op) s = .next (issued op s) := by
  rw [exec_image, issueImage_ok h.idle h.checkImage_ok, issued_eq_startCommand h.accepted]

/-- A value of a source image is a byte (R10). -/
theorem sourceImage_pix_lt {m : Memory} {f : Inflight} {i : SrcImage} (h : sourceImage m f = some i) (r c ch : Nat) :
    i.pix r c ch < 256 := by
  unfold sourceImage at h
  split at h
  · cases h
    rename_i bs _
    unfold SrcImage.pix
    rw [List.getD_eq_getElem?_getD, List.getElem?_map]
    cases bs[(r * f.src.w + c) * f.src.c + ch]? with
    | none => simp
    | some b => exact b.isLt
  · cases h

/-- The image `i` is H × W × C as the registers say, with the pixels `px` (R50, R71, R94). -/
structure ImageIs (s : State) (px : Nat → Nat → Nat → Nat) (i : SrcImage) : Prop where
  h : i.h = rows s
  w : i.w = cols s
  c : i.c = channels s
  pix : ∀ r c ch, r < rows s → c < cols s → ch < channels s → i.pix r c ch = px r c ch

/-- A specified source extent gives the core its image (R54, R61). -/
theorem SourceIs.exists_image {px : Nat → Nat → Nat → Nat} (h : SourceIs s px) :
    ∃ i, sourceImage s.pmem (snapshot op s.regs) = some i ∧ ImageIs s px i := by
  have hall : ∀ a, (snapshot op s.regs).src.contains a = true → (Memory.read s.pmem a).isSome = true := by
    intro a ha
    obtain ⟨hlo, hhi⟩ := (contains_iff _ _).1 ha
    obtain ⟨k, rfl⟩ := Nat.exists_eq_add_of_le hlo
    have hk : k < rows s * cols s * channels s := Nat.lt_of_add_lt_add_left hhi
    have hc : 0 < channels s := Nat.pos_of_mul_pos_left (Nat.zero_lt_of_lt hk)
    have hrw : k / channels s < rows s * cols s := (Nat.div_lt_iff_lt_mul hc).2 hk
    have hw : 0 < cols s := Nat.pos_of_mul_pos_left (Nat.zero_lt_of_lt hrw)
    have e := (h (k / channels s / cols s) (k / channels s % cols s) (k % channels s)
      ((Nat.div_lt_iff_lt_mul hw).2 hrw) (Nat.mod_lt _ hw) (Nat.mod_lt _ hc)).2
    rw [srcOffset, Nat.div_add_mod', Nat.add_assoc, Nat.div_add_mod'] at e
    exact Option.isSome_iff_exists.2 ⟨_, e⟩
  obtain ⟨i, hi⟩ := Option.isSome_iff_exists.1 (sourceImage_isSome hall)
  obtain ⟨e1, e2, e3, -⟩ := sourceImage_shape hi
  refine ⟨i, hi, e1, e2, e3, fun r c ch hr hc hch => ?_⟩
  obtain ⟨hlt, hread⟩ := h r c ch hr hc hch
  have e := congrArg BitVec.toNat (Option.some.inj ((sourceImage_pix hi hr hc hch).symm.trans hread))
  simpa [Nat.mod_eq_of_lt hlt, Nat.mod_eq_of_lt (sourceImage_pix_lt hi r c ch)] using e

/-- The state after the core's turn on a command just issued (R91). -/
theorem step_issued (h : channelsAccepted op s) (hr : s.resetAsserted = false) (rest : List Turn) :
    step { issued op s with turns := .core :: rest } = .next
      { s with pmem := storeResult s.params (snapshot op s.regs) s.pmem, regs := s.regs.finish op.opcode,
               inflight := none, turns := rest, epoch := s.epoch + 1 } := by
  rw [issued_eq_startCommand h, step_core rfl, coreTurn, if_neg (by simp [hr]), complete_some _ (snapshot op s.regs) rfl]
  rfl

/-- A command runs as soon as its result has the pixels: the issue, the completion and the frame are the same for every
command (R83, R91, R100). -/
theorem runsTo_of_resultPixels {px : Nat → Nat → Nat → Nat} {pixel : Nat → Nat → Nat → Nat → Prop} (rest : List Turn)
    (hr : s.resetAsserted = false) (h : Issuable op s) (hs : SourceIs s px)
    (hpix : ∀ i, ImageIs s px i → ∀ r c ch, r < rows s → c < cols s → ch < channels s →
      ∃ v, (resultPixels s.params (snapshot op s.regs) i)[(r * cols s + c) * channels s + ch]? = some v ∧ v < 256 ∧
        pixel r c ch v) :
    RunsTo op s rest pixel := by
  obtain ⟨i, hi, himg⟩ := hs.exists_image (op := op)
  have hrec : recordOk s.params (snapshot op s.regs) := recordOk_snapshot h.checkImage_ok
  refine ⟨h.exec_eq, _, step_issued h.accepted hr rest, ⟨rfl, rfl, rfl, rfl, rfl, rfl, fun a ha => ?_⟩, ?_⟩
  · refine read_storeResult_outside hrec (Bool.eq_false_iff.2 fun hc => ha ?_)
    rw [contains_iff, snapshot_dst_size h.accepted] at hc
    exact hc
  · intro r c ch hr hc hch
    obtain ⟨v, hv, hlt, hp⟩ := hpix i himg r c ch hr hc hch
    refine ⟨v, hlt, ?_, hp⟩
    rw [dstOffset, Nat.add_assoc]
    exact read_storeResult_inside hi hv

end

end Sys2Proof.Machine
end

section
/-! SUPPORT. HISTEQ (41_contrast_enhancer.md R107 to R110): the machine's histogram over a list is the rules' count over a
plane, and its integer luma and chroma are the rules' formulas. -/

namespace Sys2Proof.Machine

/-! ### The luma and chroma formulas (R109, R110) -/

theorem asr_eq_idealDescale (x : ℤ) : asr x 14 = idealDescale x := by
  rw [idealDescale, asr, ← Rat.floor_intCast_div_natCast]
  norm_num

theorem sat8_cast (x : ℤ) : (sat8 x : ℤ) = idealSat8 x := by
  unfold sat8 idealSat8
  omega

theorem sat8_lt (x : ℤ) : sat8 x < 256 := by
  unfold sat8
  omega

/-- The machine's luma is the rule's, which is never negative. -/
theorem luma_cast (b g r : ℕ) : (luma b g r : ℤ) = idealLuma b g r := by
  have h : idealLuma b g r = asr (1868 * b + 9617 * g + 4899 * r + 8192) 14 := (asr_eq_idealDescale _).symm
  rw [h, luma]
  exact Int.toNat_of_nonneg (Int.ediv_nonneg (by positivity) (by positivity))

theorem luma_eq_toNat (b g r : ℕ) : luma b g r = (idealLuma b g r).toNat := by
  rw [← luma_cast, Int.toNat_natCast]

/-- The luma of a pixel is a byte without saturation (R109). -/
theorem luma_lt {b g r : ℕ} (hb : b < 256) (hg : g < 256) (hr : r < 256) : luma b g r < 256 := by
  unfold luma asr
  omega

theorem chromaR_cast (b g r : ℕ) : (chromaR b g r : ℤ) = idealCr b g r := by
  rw [chromaR, sat8_cast, asr_eq_idealDescale, luma_cast, idealCr]

theorem chromaB_cast (b g r : ℕ) : (chromaB b g r : ℤ) = idealCb b g r := by
  rw [chromaB, sat8_cast, asr_eq_idealDescale, luma_cast, idealCb]

theorem fromYCrCb_cast (y cr cb ch : ℕ) : (fromYCrCb y cr cb ch : ℤ) = idealFromYCrCb y cr cb ch := by
  unfold fromYCrCb idealFromYCrCb
  split_ifs
  · rw [blueOf, sat8_cast, asr_eq_idealDescale]
  · rw [greenOf, sat8_cast, asr_eq_idealDescale]
  · rw [redOf, sat8_cast, asr_eq_idealDescale]

theorem fromYCrCb_lt (y cr cb ch : ℕ) : fromYCrCb y cr cb ch < 256 := by
  unfold fromYCrCb
  split_ifs <;> exact sat8_lt _

/-! ### The plane of a list of values (R94, R107) -/

/-- The values of an H × W plane, row by row. -/
def planeList (h w : ℕ) (y : ℕ → ℕ → ℕ) : List ℕ := (List.range (h * w)).map fun k => y (k / w) (k % w)

@[simp] theorem planeList_length (h w : ℕ) (y : ℕ → ℕ → ℕ) : (planeList h w y).length = h * w := by
  simp [planeList]

/-- The row-by-row index of a place in a plane is inside the plane. -/
theorem row_index_lt {h w r c : ℕ} (hr : r < h) (hc : c < w) : r * w + c < h * w := by
  simpa using pixel_index_lt hr hc Nat.zero_lt_one

/-- The row-by-row index gives back the row. -/
theorem row_index_div {w r c : ℕ} (hc : c < w) : (r * w + c) / w = r := by
  simpa using (pixel_index_parts (r := r) hc Nat.zero_lt_one).1

/-- The row-by-row index gives back the column. -/
theorem row_index_mod {w r c : ℕ} (hc : c < w) : (r * w + c) % w = c := by
  simpa using (pixel_index_parts (r := r) hc Nat.zero_lt_one).2.1

theorem mem_planeList {h w : ℕ} {y : ℕ → ℕ → ℕ} {x : ℕ} :
    x ∈ planeList h w y ↔ ∃ r c, r < h ∧ c < w ∧ x = y r c := by
  simp only [planeList, List.mem_map, List.mem_range]
  constructor
  · rintro ⟨k, hk, rfl⟩
    have hw : 0 < w := Nat.pos_of_mul_pos_left (Nat.zero_lt_of_lt hk)
    exact ⟨k / w, k % w, (Nat.div_lt_iff_lt_mul hw).2 hk, Nat.mod_lt _ hw, rfl⟩
  · rintro ⟨r, c, hr, hc, rfl⟩
    exact ⟨r * w + c, row_index_lt hr hc, by rw [row_index_div hc, row_index_mod hc]⟩

/-- cdf[v] counts the values up to v (R107). -/
theorem cdf_eq_countP (ys : List ℕ) (v : ℕ) : cdf ys v = ys.countP (· ≤ v) := by
  have hsum : ∀ ys, cdf ys v = ∑ u ∈ Finset.range (v + 1), ys.count u := fun _ => rfl
  induction ys with
  | nil => simp [hsum]
  | cons y ys ih =>
    have hy : ∑ u ∈ Finset.range (v + 1), (if y = u then 1 else 0) = if y ≤ v then 1 else 0 := by
      simp [Finset.sum_ite_eq]
    simp only [hsum, List.count_cons, beq_iff_eq, Finset.sum_add_distrib, hy, List.countP_cons, decide_eq_true_eq]
    rw [← hsum, ih]

/-- The machine's cdf of a plane's list is the rule's count over the plane. -/
theorem cdf_planeList (h w : ℕ) (y : ℕ → ℕ → ℕ) (v : ℕ) : cdf (planeList h w y) v = countUpTo h w y v := by
  have hlist : cdf (planeList h w y) v = ((Finset.range (h * w)).filter fun k => y (k / w) (k % w) ≤ v).card := by
    rw [cdf_eq_countP, planeList, List.countP_map, List.countP_eq_length_filter]
    rfl
  rw [hlist, countUpTo]
  refine Finset.card_nbij' (fun k => (k / w, k % w)) (fun rc => rc.1 * w + rc.2) ?_ ?_ ?_ ?_
  · intro k hk
    simp only [Finset.coe_filter, Finset.mem_range, Finset.mem_product, Set.mem_ofPred_eq] at hk ⊢
    have hw : 0 < w := Nat.pos_of_mul_pos_left (Nat.zero_lt_of_lt hk.1)
    exact ⟨⟨(Nat.div_lt_iff_lt_mul hw).2 hk.1, Nat.mod_lt _ hw⟩, hk.2⟩
  · intro ⟨r, c⟩ hrc
    simp only [Finset.coe_filter, Finset.mem_range, Finset.mem_product, Set.mem_ofPred_eq] at hrc ⊢
    obtain ⟨⟨hr, hc⟩, hy⟩ := hrc
    rw [row_index_div hc, row_index_mod hc]
    exact ⟨row_index_lt hr hc, hy⟩
  · intro k _
    exact Nat.div_add_mod' k w
  · intro ⟨r, c⟩ hrc
    simp only [Finset.coe_filter, Finset.mem_range, Finset.mem_product, Set.mem_ofPred_eq] at hrc
    simp only [row_index_div hrc.1.2, row_index_mod hrc.1.2]

/-- The minimum of a list of bytes is its least value (R107). -/
theorem planeMin_eq {ys : List ℕ} {v0 : ℕ} (hmem : v0 ∈ ys) (hle : ∀ x ∈ ys, v0 ≤ x) (h255 : v0 ≤ 255) :
    planeMin ys = v0 := by
  apply le_antisymm
  · clear hle h255
    induction ys with
    | nil => cases hmem
    | cons x xs ih =>
      rcases List.mem_cons.1 hmem with rfl | hmem
      · exact min_le_left _ _
      · exact (min_le_right _ _).trans (ih hmem)
  · clear hmem
    induction ys with
    | nil => exact h255
    | cons x xs ih => exact le_min (hle x (by simp)) (ih fun z hz => hle z (by simp [hz]))

theorem countUpTo_le (h w : ℕ) (y : ℕ → ℕ → ℕ) (v : ℕ) : countUpTo h w y v ≤ h * w := by
  rw [← cdf_planeList, cdf_eq_countP]
  exact List.countP_le_length.trans (planeList_length h w y).le

theorem countUpTo_mono (h w : ℕ) (y : ℕ → ℕ → ℕ) {v v' : ℕ} (hv : v ≤ v') :
    countUpTo h w y v ≤ countUpTo h w y v' :=
  Finset.card_le_card (Finset.monotone_filter_right _ fun _ _ hx => le_trans hx hv)

/-- heqLUT of a plane's list at one of its values is the equalization of R107. -/
theorem equalizedTo_heqLut {h w : ℕ} {y : ℕ → ℕ → ℕ} {r c : ℕ} (hr : r < h) (hc : c < w) (h255 : y r c ≤ 255) :
    EqualizedTo h w y (y r c) (heqLut (planeList h w y) (y r c)) := by
  intro v0 hv0
  have hle : ∀ x ∈ planeList h w y, v0 ≤ x := fun x hx => hv0.2 (mem_planeList.1 hx)
  have hv : v0 ≤ y r c := hle _ (mem_planeList.2 ⟨r, c, hr, hc, rfl⟩)
  have hmin : planeMin (planeList h w y) = v0 := planeMin_eq (mem_planeList.2 hv0.1) hle (hv.trans h255)
  unfold heqLut
  simp only [hmin, cdf_planeList, planeList_length, if_neg (Nat.not_lt.2 hv)]
  split_ifs with hflat
  · rfl
  · have hlt : countUpTo h w y v0 < h * w := lt_of_le_of_ne (countUpTo_le h w y v0) hflat
    rw [rneDiv_eq_idealRne _ (Nat.sub_pos_of_lt hlt)]
    push_cast [Nat.cast_sub hlt.le, Nat.cast_sub (countUpTo_mono h w y hv)]
    rfl

/-- A quotient up to a number rounds to at most that number (R12). -/
theorem rneDiv_le {a b k : ℕ} (hb : 0 < b) (h : a ≤ k * b) : rneDiv a b ≤ k := by
  have hq : a / b ≤ k := Nat.div_le_of_le_mul (by rwa [Nat.mul_comm])
  have hup : a % b ≠ 0 → a / b + 1 ≤ k := fun hm => by
    by_contra hk
    have hqk : a / b = k := by omega
    have := Nat.div_add_mod' a b
    rw [hqk] at this
    omega
  unfold rneDiv
  split_ifs with h1 h2
  · exact hq
  · exact hup (by omega)
  · exact hq
  · exact hup (by omega)

/-- heqLUT of a byte is a byte (R107). -/
theorem heqLut_lt (ys : List ℕ) {v : ℕ} (hv : v < 256) : heqLut ys v < 256 := by
  unfold heqLut
  dsimp only
  split_ifs with h1 h2
  · exact hv
  · decide
  · have hle : ∀ u, cdf ys u ≤ ys.length := fun u => by
      rw [cdf_eq_countP]
      exact List.countP_le_length
    have h0 := hle (planeMin ys)
    refine Nat.lt_succ_of_le (rneDiv_le (by omega) ?_)
    rw [Nat.mul_comm]
    exact Nat.mul_le_mul_left _ (Nat.sub_le_sub_right (hle v) _)

/-- A table of 256 entries at a byte (R103, R108). -/
theorem table_getD (f : ℕ → ℕ) {v : ℕ} (hv : v < 256) : ((List.range 256).map f).getD v 0 = f v := by
  simp [List.getD_eq_getElem?_getD, hv]

/-! ### The command (R108) -/

section
variable {s : State} {px : Nat → Nat → Nat → Nat} {i : SrcImage}

/-- The luma of pixel (r, c) (R109). -/
def lumaAt (px : Nat → Nat → Nat → Nat) (r c : Nat) : Nat := luma (px r c 0) (px r c 1) (px r c 2)

theorem lumaAt_eq_toNat (px : Nat → Nat → Nat → Nat) :
    lumaAt px = fun r c => (idealLuma (px r c 0) (px r c 1) (px r c 2)).toNat :=
  funext₂ fun _ _ => luma_eq_toNat _ _ _

/-- The values of a gray image's only channel are those of the plane. -/
theorem ImageIs.planeValues (h : ImageIs s px i) (hc : channels s = 1) :
    i.planeValues 0 = planeList (rows s) (cols s) fun r c => px r c 0 := by
  rw [SrcImage.planeValues, planeList, h.h, h.w]
  refine List.map_congr_left fun k hk => ?_
  have hw : 0 < cols s := Nat.pos_of_mul_pos_left (Nat.zero_lt_of_lt (List.mem_range.1 hk))
  have := h.pix (k / cols s) (k % cols s) 0 ((Nat.div_lt_iff_lt_mul hw).2 (List.mem_range.1 hk)) (Nat.mod_lt _ hw)
    (by omega)
  rwa [SrcImage.pix, h.w, Nat.div_add_mod'] at this

/-- The luma values of a colour image are those of the rule's luma plane (R108, R109). -/
theorem ImageIs.lumaValues (h : ImageIs s px i) (hc : channels s = 3) :
    lumaValues i = planeList (rows s) (cols s) (lumaAt px) := by
  rw [Machine.lumaValues, planeList, h.h, h.w]
  refine List.map_congr_left fun k hk => ?_
  have hw : 0 < cols s := Nat.pos_of_mul_pos_left (Nat.zero_lt_of_lt (List.mem_range.1 hk))
  have hpix : ∀ ch, ch < 3 → i.px.getD (k * i.c + ch) 0 = px (k / cols s) (k % cols s) ch := fun ch hch => by
    have := h.pix (k / cols s) (k % cols s) ch ((Nat.div_lt_iff_lt_mul hw).2 (List.mem_range.1 hk)) (Nat.mod_lt _ hw)
      (by omega)
    rwa [SrcImage.pix, h.w, Nat.div_add_mod'] at this
  rw [lumaAt, ← hpix 0 (by decide), ← hpix 1 (by decide), ← hpix 2 (by decide)]
  rfl

/-- The result's pixel on one channel (R108). -/
theorem ImageIs.resultHisteq_gray (h : ImageIs s px i) (hc : channels s = 1) {r c ch : Nat} (hr : r < rows s)
    (hcol : c < cols s) (hch : ch < channels s) (hpx : px r c 0 < 256) :
    (resultHisteq i)[(r * cols s + c) * channels s + ch]? =
      some (heqLut (planeList (rows s) (cols s) fun r c => px r c 0) (px r c 0)) := by
  have h0 : ch = 0 := by omega
  subst h0
  rw [resultHisteq, if_pos (h.c.trans hc), h.planeValues hc, h.h, h.w, h.c, layout_at _ hr hcol hch,
    h.pix r c 0 hr hcol hch, table_getD _ hpx]

/-- The result's pixel on three channels: the luma through the table, with the pixel's own chroma (R108). -/
theorem ImageIs.resultHisteq_colour (h : ImageIs s px i) (hc : channels s = 3) {r c ch : Nat} (hr : r < rows s)
    (hcol : c < cols s) (hch : ch < channels s) (hpx : ∀ k, k < 3 → px r c k < 256) :
    (resultHisteq i)[(r * cols s + c) * channels s + ch]? =
      some (fromYCrCb (heqLut (planeList (rows s) (cols s) (lumaAt px)) (lumaAt px r c))
        (chromaR (px r c 0) (px r c 1) (px r c 2)) (chromaB (px r c 0) (px r c 1) (px r c 2)) ch) := by
  have hp : ∀ k, k < 3 → i.pix r c k = px r c k := fun k hk => h.pix r c k hr hcol (by omega)
  have hl := luma_lt (hpx 0 (by decide)) (hpx 1 (by decide)) (hpx 2 (by decide))
  rw [resultHisteq, if_neg (by rw [h.c]; omega), h.lumaValues hc, h.h, h.w, h.c, layout_at _ hr hcol hch,
    hp 0 (by decide), hp 1 (by decide), hp 2 (by decide), equalizedColour, table_getD _ hl, lumaAt]

end

/-- Settles O12: the table over the plane's list is the rule's equalization of the plane. -/
theorem histeqEqualizesGray : Obligations.HisteqEqualizesGray := by
  intro s rest px hr h hs hc
  refine runsTo_of_resultPixels rest hr h hs fun i hi r c ch hrow hcol hch => ?_
  have hpx : px r c 0 < 256 := (hs r c 0 hrow hcol (by omega)).1
  exact ⟨_, hi.resultHisteq_gray hc hrow hcol hch hpx, heqLut_lt _ hpx,
    equalizedTo_heqLut (y := fun r' c' => px r' c' 0) hrow hcol (by omega)⟩

/-- Settles O13: the same on the luma plane, and the colour conversions are the rules' formulas. -/
theorem histeqEqualizesLumaOnly : Obligations.HisteqEqualizesLumaOnly := by
  intro s rest px hr h hs hc
  refine runsTo_of_resultPixels rest hr h hs fun i hi r c ch hrow hcol hch => ?_
  have hpx : ∀ k, k < 3 → px r c k < 256 := fun k hk => (hs r c k hrow hcol (by omega)).1
  have hl : lumaAt px r c < 256 := luma_lt (hpx 0 (by decide)) (hpx 1 (by decide)) (hpx 2 (by decide))
  refine ⟨_, hi.resultHisteq_colour hc hrow hcol hch hpx, fromYCrCb_lt _ _ _ _,
    heqLut (planeList (rows s) (cols s) (lumaAt px)) (lumaAt px r c), ?_, ?_⟩
  · rw [← luma_eq_toNat, ← lumaAt_eq_toNat]
    exact equalizedTo_heqLut (y := lumaAt px) hrow hcol (by omega)
  · rw [fromYCrCb_cast, chromaR_cast, chromaB_cast]

end Sys2Proof.Machine
end

section
/-! SUPPORT. FREQ_TOL is any real number (R7; log entry 4). Images up to MAX_DIM give finitely many ideal pixel values, and
`quant` is constant on a small interval above any point, so one rational enclosure is tight enough for all of them. -/

namespace Sys2Proof.Machine

/-! ### `quant` is constant just above a point (R12) -/

/-- From `x` up to `x + δ`, and not including it, `quant` has one value. -/
def QuantMargin (δ x : ℝ) : Prop := ∀ y, x ≤ y → y < x + δ → idealQuant y = idealQuant x

theorem exists_quantMargin (x : ℝ) : ∃ δ > 0, QuantMargin δ x := by
  have h0 : 0 ≤ min 255 (max 0 x) := le_min (by norm_num) (le_max_left _ _)
  obtain ⟨hlo, hhi⟩ : (idealQuant x : ℝ) ≤ min 255 (max 0 x) ∧ min 255 (max 0 x) < idealQuant x + 1 :=
    (Nat.floor_eq_iff h0).1 rfl
  refine ⟨idealQuant x + 1 - min 255 (max 0 x), by linarith, fun y hxy hy => ?_⟩
  have hup : min 255 (max 0 x) ≤ min 255 (max 0 y) := min_le_min_left _ (max_le_max_left _ hxy)
  have hslope : min 255 (max 0 y) ≤ min 255 (max 0 x) + (y - x) := by
    rw [min_add, max_add]
    refine min_le_min (by linarith) (max_le_max (by linarith) (by linarith))
  exact (Nat.floor_eq_iff (h0.trans hup)).2 ⟨hlo.trans hup, by linarith⟩

/-- Finitely many points have a common margin. -/
theorem exists_common_quantMargin {S : Set ℝ} (hS : S.Finite) : ∃ δ > 0, ∀ x ∈ S, QuantMargin δ x := by
  induction S, hS using Set.Finite.induction_on with
  | empty => exact ⟨1, one_pos, fun _ h => h.elim⟩
  | @insert a S _ _ ih =>
    obtain ⟨δ, hδ, h⟩ := ih
    obtain ⟨ε, hε, ha⟩ := exists_quantMargin a
    refine ⟨min δ ε, lt_min hδ hε, fun x hx y hxy hy => ?_⟩
    rcases Set.mem_insert_iff.1 hx with rfl | hx
    · exact ha y hxy (hy.trans_le (by gcongr; exact min_le_right _ _))
    · exact h x hx y hxy (hy.trans_le (by gcongr; exact min_le_left _ _))

/-! ### The ideal pixel values up to MAX_DIM are finitely many -/

/-- The values of a function of image, two parameters and a place, over the images up to D × D with byte pixels and the
parameters up to `A` and `B`. -/
def boundedValues (F : ℕ → ℕ → (ℕ → ℕ → ℕ) → ℕ → ℕ → ℕ → ℕ → ℝ) (D A B : ℕ) : Set ℝ :=
  { x | ∃ h w g a b r c, h ≤ D ∧ w ≤ D ∧ r < h ∧ c < w ∧ (∀ i j, g i j ≤ 255) ∧ a ≤ A ∧ b ≤ B ∧ x = F h w g a b r c }

/-- The plane with the given bytes in its first D rows and columns. -/
def finitePlane {D : ℕ} (g : Fin D → Fin D → Fin 256) (i j : ℕ) : ℕ :=
  if h : i < D ∧ j < D then g ⟨i, h.1⟩ ⟨j, h.2⟩ else 0

/-- A function that reads only the H × W plane has finitely many values. -/
theorem boundedValues_finite {F : ℕ → ℕ → (ℕ → ℕ → ℕ) → ℕ → ℕ → ℕ → ℕ → ℝ}
    (hF : ∀ {h w g g'} (a b r c : ℕ), (∀ i j, i < h → j < w → g i j = g' i j) → F h w g a b r c = F h w g' a b r c)
    (D A B : ℕ) : (boundedValues F D A B).Finite := by
  refine (Set.finite_range fun z : (Fin (D + 1) × Fin (D + 1)) × (Fin D → Fin D → Fin 256) ×
    (Fin (A + 1) × Fin (B + 1)) × Fin D × Fin D =>
      F z.1.1 z.1.2 (finitePlane z.2.1) z.2.2.1.1 z.2.2.1.2 z.2.2.2.1 z.2.2.2.2).subset ?_
  rintro x ⟨h, w, g, a, b, r, c, hh, hw, hr, hc, hg, ha, hb, rfl⟩
  refine ⟨((⟨h, by omega⟩, ⟨w, by omega⟩), fun i j => ⟨g i j, Nat.lt_succ_of_le (hg i j)⟩,
    (⟨a, by omega⟩, ⟨b, by omega⟩), ⟨r, by omega⟩, ⟨c, by omega⟩), hF a b r c fun i j hi hj => ?_⟩
  rw [finitePlane, dif_pos ⟨by omega, by omega⟩]

/-- The transform reads only the H × W plane (R115). -/
theorem idealDft2_congr {h w : ℕ} {g g' : ℕ → ℕ → ℂ} (e : ∀ i j, i < h → j < w → g i j = g' i j) (u v : ℕ) :
    idealDft2 h w g u v = idealDft2 h w g' u v :=
  Finset.sum_congr rfl fun r hr => Finset.sum_congr rfl fun c hc => by
    rw [e r c (Finset.mem_range.1 hr) (Finset.mem_range.1 hc)]

theorem idealButter_congr {h w : ℕ} {g g' : ℕ → ℕ → ℕ} (cut ord r c : ℕ) (e : ∀ i j, i < h → j < w → g i j = g' i j) :
    idealButter h w g cut ord r c = idealButter h w g' cut ord r c := by
  simp only [idealButter, idealDft2_congr (g := fun r c => (g r c : ℂ)) (g' := fun r c => (g' r c : ℂ))
    fun i j hi hj => congrArg Nat.cast (e i j hi hj)]

theorem idealWiener_congr {h w : ℕ} {g g' : ℕ → ℕ → ℕ} (k np r c : ℕ) (e : ∀ i j, i < h → j < w → g i j = g' i j) :
    idealWiener h w g k np r c = idealWiener h w g' k np r c := by
  simp only [idealWiener, idealDft2_congr (g := fun r c => (g r c : ℂ)) (g' := fun r c => (g' r c : ℂ))
    fun i j hi hj => congrArg Nat.cast (e i j hi hj)]

/-! ### The enclosure -/

/-- A real number t ≥ 0 has rational enclosures with one denominator, as tight as one likes. -/
theorem exists_tight_enclosure {t ε : ℝ} (ht : 0 ≤ t) (hε : 0 < ε) :
    ∃ below above den : ℕ, 1 ≤ den ∧ below ≤ above ∧ (below : ℝ) / den ≤ t ∧ t ≤ (above : ℝ) / den ∧
      t < (below : ℝ) / den + ε ∧ (above : ℝ) / den < t + ε := by
  obtain ⟨n, hn⟩ := exists_nat_one_div_lt hε
  have hd : (0 : ℝ) < (n + 1 : ℕ) := by positivity
  have hstep : 1 < ε * (n + 1 : ℕ) := by
    rw [div_lt_iff₀ (by positivity)] at hn
    exact_mod_cast hn
  have htd : 0 ≤ t * (n + 1 : ℕ) := by positivity
  refine ⟨⌊t * (n + 1 : ℕ)⌋₊, ⌈t * (n + 1 : ℕ)⌉₊, n + 1, by omega, Nat.floor_le_ceil _, ?_, ?_, ?_, ?_⟩
  · exact (div_le_iff₀ hd).2 (Nat.floor_le htd)
  · exact (le_div_iff₀ hd).2 (Nat.le_ceil _)
  · rw [← sub_lt_iff_lt_add, lt_div_iff₀ hd, sub_mul]
    linarith [Nat.lt_floor_add_one (t * (n + 1 : ℕ))]
  · rw [div_lt_iff₀ hd, add_mul]
    linarith [Nat.ceil_lt_add_one htd]

/-- Within the margins of x − t and x + t the enclosure gives t's own range (R123). -/
theorem sameRange_of_quantMargin {p : Params} {t δ x : ℝ} (hlow : freqTolLow p ≤ t) (hhigh : t ≤ freqTolHigh p)
    (hlow' : t < freqTolLow p + δ) (hhigh' : freqTolHigh p < t + δ) (hx : QuantMargin δ (x - t))
    (hx' : QuantMargin δ (x + t)) : sameRange p t x :=
  ⟨hx _ (by linarith) (by linarith), hx' _ (by linarith) (by linarith)⟩

/-- Settles O31: an enclosure within the common margin of all pixel values up to MAX_DIM. -/
theorem everyRealToleranceIsGiven : Obligations.EveryRealToleranceIsGiven := by
  intro p t hp ht
  have hX := (boundedValues_finite idealButter_congr p.maxDim 65535 255).union
    (boundedValues_finite idealWiener_congr p.maxDim 255 (2 ^ 32))
  obtain ⟨δ, hδ, hm⟩ := exists_common_quantMargin ((hX.image (· - t)).union (hX.image (· + t)))
  obtain ⟨below, above, den, hden, hle, hlow, hhigh, hlow', hhigh'⟩ := exists_tight_enclosure ht hδ
  refine ⟨below, above, den, ?_, hlow, hhigh, fun h w g r c hh hw hr hc hg => ?_⟩
  · simp only [Params.legal, Bool.and_eq_true] at hp ⊢
    exact ⟨hp.1, by simp [Params.freqTolLegal, hden, hle]⟩
  · have hsame : ∀ x ∈ boundedValues idealButter p.maxDim 65535 255 ∪ boundedValues idealWiener p.maxDim 255 (2 ^ 32),
        sameRange { p with freqTolBelow := below, freqTolAbove := above, freqTolDen := den } t x := fun x hx =>
      sameRange_of_quantMargin hlow hhigh hlow' hhigh' (hm _ (.inl ⟨x, hx, rfl⟩)) (hm _ (.inr ⟨x, hx, rfl⟩))
    exact ⟨fun cut ord _ hcut _ hord => hsame _ (.inl ⟨h, w, g, cut, ord, r, c, hh, hw, hr, hc, hg, hcut, hord, rfl⟩),
      fun k np _ hk _ _ hnp => hsame _ (.inr ⟨h, w, g, k, np, r, c, hh, hw, hr, hc, hg, hk, hnp.le, rfl⟩)⟩

end Sys2Proof.Machine
end

section
/-! SUPPORT. The zero test of Cyclotomic.lean (log entry 10): a combination of powers of ζ as a function on the n-th roots
of unity, and the integer that keeps a number of this kind away from 0. -/

namespace Sys2Proof.Machine

open Polynomial

/-! ### Coefficients -/

@[simp] theorem Cyc.coef_tabulate (n : ℕ) (f : ℕ → ℤ) (j : ℕ) :
    Cyc.coef (Cyc.tabulate n f) j = if j < n then f j else 0 := by
  unfold Cyc.coef Cyc.tabulate
  rw [List.getD_eq_getElem?_getD, List.getElem?_map]
  split_ifs with h
  · simp [h]
  · simp [Nat.le_of_not_lt h]

@[simp] theorem Cyc.tabulate_length (n : ℕ) (f : ℕ → ℤ) : (Cyc.tabulate n f).length = n := by
  simp [Cyc.tabulate]

theorem Cyc.coef_eq_zero_of_length_le {a : Cyc} {j : ℕ} (h : a.length ≤ j) : Cyc.coef a j = 0 := by
  simp [Cyc.coef, h]

/-- The test that all coefficients are 0. -/
theorem Cyc.all_beq_zero_iff (a : Cyc) : a.all (· == 0) = true ↔ ∀ j, Cyc.coef a j = 0 := by
  simp only [List.all_eq_true, beq_iff_eq, List.forall_mem_iff_getElem]
  constructor
  · intro h j
    by_cases hj : j < a.length
    · simpa [Cyc.coef, hj] using h j hj
    · exact Cyc.coef_eq_zero_of_length_le (Nat.le_of_not_lt hj)
  · intro h j hj
    simpa [Cyc.coef, hj] using h j

/-! ### The value at an n-th root of unity -/

/-- Σ_j a_j ω^j for any complex ω. -/
noncomputable def Cyc.valueAt (n : ℕ) (a : Cyc) (ω : ℂ) : ℂ := ∑ j ∈ Finset.range n, (Cyc.coef a j : ℂ) * ω ^ j

/-- ζ = e^{2πi/n}. -/
noncomputable def zeta (n : ℕ) : ℂ := cis (2 * Real.pi / n)

theorem zeta_isPrimitiveRoot {n : ℕ} (hn : 0 < n) : IsPrimitiveRoot (zeta n) n := by
  have h := Complex.isPrimitiveRoot_exp n hn.ne'
  have e : zeta n = Complex.exp (2 * Real.pi * Complex.I / n) := by
    unfold zeta cis
    push_cast
    congr 1
    ring
  rwa [e]

/-- The number a `Cyc` stands for is its value at ζ. -/
theorem Cyc.value_eq_valueAt (n : ℕ) (a : Cyc) : Cyc.value n a = Cyc.valueAt n a (zeta n) := by
  refine Finset.sum_congr rfl fun j _ => ?_
  unfold zeta cis
  rw [← Complex.exp_nat_mul]
  push_cast
  congr 2
  ring

section
variable {n : ℕ} {ω : ℂ}

theorem Cyc.valueAt_sub (n : ℕ) (a b : Cyc) (ω : ℂ) :
    Cyc.valueAt n (Cyc.sub n a b) ω = Cyc.valueAt n a ω - Cyc.valueAt n b ω := by
  unfold Cyc.valueAt
  rw [← Finset.sum_sub_distrib]
  refine Finset.sum_congr rfl fun j hj => ?_
  simp only [Cyc.sub, Cyc.coef_tabulate, if_pos (Finset.mem_range.1 hj)]
  push_cast
  ring

theorem pow_eq_of_modEq (hω : ω ^ n = 1) {k l : ℕ} (h : k ≡ l [MOD n]) : ω ^ k = ω ^ l := by
  rw [pow_eq_pow_mod k hω, pow_eq_pow_mod l hω, h]

/-- Rotation multiplies by ω^e. -/
theorem Cyc.valueAt_rotate (hω : ω ^ n = 1) (e : ℕ) (a : Cyc) :
    Cyc.valueAt n (Cyc.rotate n e a) ω = ω ^ e * Cyc.valueAt n a ω := by
  rcases Nat.eq_zero_or_pos n with rfl | hn
  · simp [Cyc.valueAt]
  have hback : ∀ j, j + (n - e % n) + e ≡ j [MOD n] := fun j => by
    have hle : e % n ≤ n := (Nat.mod_lt e hn).le
    have : j + (n - e % n) + e = j + n * (1 + e / n) := by
      have := Nat.mod_add_div e n
      rw [Nat.mul_add]
      omega
    rw [this]
    exact Nat.add_mul_mod_self_left _ _ _
  have hfront : ∀ i, i + e + (n - e % n) ≡ i [MOD n] := fun i => by
    rw [Nat.add_right_comm]
    exact hback i
  unfold Cyc.valueAt
  rw [Finset.mul_sum]
  refine Finset.sum_nbij' (fun j => (j + (n - e % n)) % n) (fun i => (i + e) % n) ?_ ?_ ?_ ?_ ?_
  · exact fun j _ => Finset.mem_range.2 (Nat.mod_lt _ hn)
  · exact fun i _ => Finset.mem_range.2 (Nat.mod_lt _ hn)
  · intro j hj
    rw [Nat.mod_add_mod, hback j, Nat.mod_eq_of_lt (Finset.mem_range.1 hj)]
  · intro i hi
    rw [Nat.mod_add_mod, hfront i, Nat.mod_eq_of_lt (Finset.mem_range.1 hi)]
  · intro j hj
    have hpow : ω ^ j = ω ^ e * ω ^ ((j + (n - e % n)) % n) := by
      rw [← pow_eq_pow_mod _ hω, ← pow_add, Nat.add_comm e]
      exact pow_eq_of_modEq hω (hback j).symm
    simp only [Cyc.rotate, Cyc.coef_tabulate, if_pos (Finset.mem_range.1 hj)]
    rw [hpow]
    ring

/-! ### The polynomial of a combination -/

/-- Σ_j a_j X^j. -/
noncomputable def Cyc.poly (n : ℕ) (a : Cyc) : ℤ[X] := ∑ j ∈ Finset.range n, C (Cyc.coef a j) * X ^ j

theorem Cyc.aeval_poly (n : ℕ) (a : Cyc) (ω : ℂ) : aeval ω (Cyc.poly n a) = Cyc.valueAt n a ω := by
  simp [Cyc.poly, Cyc.valueAt]

theorem Cyc.coeff_poly (n : ℕ) (a : Cyc) (j : ℕ) : (Cyc.poly n a).coeff j = if j < n then Cyc.coef a j else 0 := by
  simp [Cyc.poly, coeff_X_pow]

/-- A combination that vanishes at every n-th root of unity has no coefficient but 0. -/
theorem Cyc.coef_eq_zero_of_valueAt (hn : 0 < n) {a : Cyc} (h : ∀ ω : ℂ, ω ^ n = 1 → Cyc.valueAt n a ω = 0) {j : ℕ}
    (hj : j < n) : Cyc.coef a j = 0 := by
  have hdeg : ((Cyc.poly n a).map (Int.castRingHom ℂ)).natDegree < (nthRootsFinset n (1 : ℂ)).card := by
    rw [(zeta_isPrimitiveRoot hn).card_nthRootsFinset]
    refine lt_of_le_of_lt (natDegree_le_iff_coeff_eq_zero.2 fun N hN => ?_) (Nat.sub_lt hn one_pos)
    rw [coeff_map, Cyc.coeff_poly, if_neg (by omega), map_zero]
  have hzero := eq_zero_of_natDegree_lt_card_of_eval_eq_zero' _ _ (fun ω hω => ?_) hdeg
  · have := congrArg (coeff · j) hzero
    simpa [Cyc.coeff_poly, hj] using this
  · rw [eval_map, ← algebraMap_int_eq, ← aeval_def, Cyc.aeval_poly]
    exact h ω ((mem_nthRootsFinset hn (1 : ℂ)).1 hω)

/-- A combination that vanishes at one primitive n-th root of unity vanishes at all: the cyclotomic polynomial divides it. -/
theorem Cyc.valueAt_eq_zero_of_isPrimitiveRoot (hn : 0 < n) {a : Cyc} {ω' : ℂ} (hω : IsPrimitiveRoot ω n)
    (hω' : IsPrimitiveRoot ω' n) (h : Cyc.valueAt n a ω = 0) : Cyc.valueAt n a ω' = 0 := by
  have hdvd : cyclotomic n ℤ ∣ Cyc.poly n a := by
    rw [cyclotomic_eq_minpoly hω hn]
    exact minpoly.isIntegrallyClosed_dvd (hω.isIntegral hn) (by rw [Cyc.aeval_poly, h])
  obtain ⟨q, hq⟩ := hdvd
  have hroot : aeval ω' (cyclotomic n ℤ) = 0 := by
    rw [cyclotomic_eq_minpoly hω' hn]
    exact minpoly.aeval _ _
  rw [← Cyc.aeval_poly, hq, map_mul, hroot, zero_mul]

/-! ### The zero test -/

theorem mem_primeDivisors (hn : 0 < n) {p : ℕ} : p ∈ primeDivisors n ↔ p.Prime ∧ p ∣ n := by
  simp only [primeDivisors, List.mem_filter, List.mem_range, Bool.and_eq_true, decide_eq_true_eq, beq_iff_eq,
    List.all_eq_true, Bool.or_eq_true, bne_iff_ne, ne_eq, Nat.prime_def_lt]
  constructor
  · rintro ⟨_, ⟨h2, hd⟩, hall⟩
    refine ⟨⟨h2, fun m hm hdvd => ?_⟩, Nat.dvd_of_mod_eq_zero hd⟩
    have hm0 : 0 < m := Nat.pos_of_dvd_of_pos hdvd (by omega)
    rcases hall m hm with h | h
    · omega
    · exact absurd (Nat.mod_eq_zero_of_dvd hdvd) h
  · rintro ⟨⟨h2, hp⟩, hd⟩
    refine ⟨Nat.lt_succ_of_le (Nat.le_of_dvd hn hd), ⟨h2, Nat.mod_eq_zero_of_dvd hd⟩, fun m hm => ?_⟩
    by_contra hcon
    push Not at hcon
    have := hp m hm (Nat.dvd_of_mod_eq_zero hcon.2)
    omega

/-- One factor 1 - ω^(n/p) of the zero test. -/
def Cyc.timesFactor (n : ℕ) (b : Cyc) (p : ℕ) : Cyc := Cyc.sub n b (Cyc.rotate n (n / p) b)

theorem Cyc.foldl_timesFactor_length {a : Cyc} (h : a.length = n) (ps : List ℕ) :
    (ps.foldl (Cyc.timesFactor n) a).length = n := by
  induction ps generalizing a with
  | nil => exact h
  | cons p ps ih => exact ih (Cyc.tabulate_length _ _)

theorem Cyc.valueAt_foldl_timesFactor (hω : ω ^ n = 1) (a : Cyc) (ps : List ℕ) :
    Cyc.valueAt n (ps.foldl (Cyc.timesFactor n) a) ω = Cyc.valueAt n a ω * (ps.map fun p => 1 - ω ^ (n / p)).prod := by
  induction ps generalizing a with
  | nil => simp
  | cons p ps ih =>
    rw [List.foldl_cons, ih, List.map_cons, List.prod_cons, Cyc.timesFactor, Cyc.valueAt_sub, Cyc.valueAt_rotate hω]
    ring

/-- No factor is 0 at a primitive root. -/
theorem factors_ne_zero (hn : 0 < n) (hω : IsPrimitiveRoot ω n) :
    ((primeDivisors n).map fun p => 1 - ω ^ (n / p)).prod ≠ 0 := by
  refine List.prod_ne_zero fun h0 => ?_
  obtain ⟨p, hp, hfactor⟩ := List.mem_map.1 h0
  obtain ⟨hprime, hdvd⟩ := (mem_primeDivisors hn).1 hp
  exact hω.pow_ne_one_of_pos_of_lt (Nat.div_pos (Nat.le_of_dvd hn hdvd) hprime.pos).ne'
    (Nat.div_lt_self hn hprime.one_lt) (sub_eq_zero.1 hfactor).symm

/-- Some factor is 0 at every other n-th root of unity. -/
theorem factors_eq_zero (hn : 0 < n) (hω : ω ^ n = 1) (hnot : ¬ IsPrimitiveRoot ω n) :
    ((primeDivisors n).map fun p => 1 - ω ^ (n / p)).prod = 0 := by
  obtain ⟨k, hk⟩ := orderOf_dvd_of_pow_eq_one hω
  have hk1 : k ≠ 1 := fun h1 => hnot (by
    rw [h1, mul_one] at hk
    rw [hk]
    exact IsPrimitiveRoot.orderOf ω)
  obtain ⟨p, hprime, q, hq⟩ := Nat.exists_prime_and_dvd hk1
  refine List.prod_eq_zero (List.mem_map.2 ⟨p, (mem_primeDivisors hn).2 ⟨hprime, orderOf ω * q, ?_⟩, ?_⟩)
  · rw [hk, hq]
    ring
  · have hdiv : n / p = orderOf ω * q := by
      rw [hk, hq, Nat.mul_left_comm, Nat.mul_div_cancel_left _ hprime.pos]
    rw [hdiv, pow_mul, pow_orderOf_eq_one, one_pow, sub_self]

/-- The zero test is exact. -/
theorem Cyc.isZero_iff (hn : 0 < n) {a : Cyc} (hlen : a.length = n) : Cyc.isZero n a = true ↔ Cyc.value n a = 0 := by
  have hζ := zeta_isPrimitiveRoot hn
  have htest : Cyc.isZero n a = true ↔ ∀ j, Cyc.coef ((primeDivisors n).foldl (Cyc.timesFactor n) a) j = 0 :=
    Cyc.all_beq_zero_iff _
  rw [htest, Cyc.value_eq_valueAt]
  constructor
  · intro h
    have hfold : Cyc.valueAt n ((primeDivisors n).foldl (Cyc.timesFactor n) a) (zeta n) = 0 :=
      Finset.sum_eq_zero fun j _ => by rw [h j, Int.cast_zero, zero_mul]
    rw [Cyc.valueAt_foldl_timesFactor hζ.pow_eq_one] at hfold
    exact (mul_eq_zero.1 hfold).resolve_right (factors_ne_zero hn hζ)
  · intro h j
    by_cases hj : j < n
    · refine Cyc.coef_eq_zero_of_valueAt hn (fun ω hω => ?_) hj
      rw [Cyc.valueAt_foldl_timesFactor hω]
      by_cases hprim : IsPrimitiveRoot ω n
      · rw [Cyc.valueAt_eq_zero_of_isPrimitiveRoot hn hζ hprim h, zero_mul]
      · rw [factors_eq_zero hn hω hprim, mul_zero]
    · exact Cyc.coef_eq_zero_of_length_le ((Cyc.foldl_timesFactor_length hlen _).trans_le (Nat.le_of_not_lt hj))

/-! ### A number that is not 0 is not small -/

/-- The weight bounds the size of a sum over the coefficients. -/
theorem Cyc.weight_eq_sum {a : Cyc} (hlen : a.length = n) :
    (Cyc.weight a : ℝ) = ∑ j ∈ Finset.range n, |(Cyc.coef a j : ℝ)| := by
  have h : (Cyc.weight a : ℝ) = ∑ j ∈ Finset.range a.length, |(Cyc.coef a j : ℝ)| := by
    clear hlen
    induction a with
    | nil => simp [Cyc.weight]
    | cons x xs ih =>
      have hcons : Cyc.weight (x :: xs) = x.natAbs + Cyc.weight xs := rfl
      rw [hcons, List.length_cons, Finset.sum_range_succ', Nat.cast_add, ih, Nat.cast_natAbs, Int.cast_abs, add_comm]
      rfl
  rw [h, hlen]

/-- On the n-th roots of unity a combination is at most its weight in size. -/
theorem Cyc.norm_valueAt_le (hn : 0 < n) {a : Cyc} (hlen : a.length = n) (hω : ω ^ n = 1) :
    ‖Cyc.valueAt n a ω‖ ≤ Cyc.weight a := by
  rw [Cyc.weight_eq_sum hlen]
  refine (norm_sum_le _ _).trans (Finset.sum_le_sum fun j _ => ?_)
  rw [norm_mul, norm_pow, Complex.norm_eq_one_of_pow_eq_one hω hn.ne', one_pow, mul_one, Complex.norm_intCast]

/-- The product over the conjugates is a resultant of integer polynomials, so an integer. -/
theorem Cyc.exists_int_eq_prod_conjugates (hn : 0 < n) (a : Cyc) :
    ∃ N : ℤ, (N : ℂ) = ∏ ω ∈ primitiveRoots n ℂ, Cyc.valueAt n a ω := by
  have : NeZero (n : ℂ) := ⟨Nat.cast_ne_zero.2 hn.ne'⟩
  refine ⟨resultant (cyclotomic n ℤ) (Cyc.poly n a), ?_⟩
  have h := resultant_eq_prod_eval (cyclotomic n ℂ) ((Cyc.poly n a).map (Int.castRingHom ℂ)) (Cyc.poly n a).natDegree
    natDegree_map_le (IsAlgClosed.splits _)
  rw [← map_cyclotomic_int, resultant_map_map, natDegree_map_eq_of_injective (RingHom.injective_int _),
    map_cyclotomic_int, cyclotomic.monic n ℂ, one_pow, one_mul, cyclotomic.roots_eq_primitiveRoots_val] at h
  refine h.trans (congrArg Multiset.prod (Multiset.map_congr rfl fun ω _ => ?_))
  rw [eval_map, ← algebraMap_int_eq, ← aeval_def, Cyc.aeval_poly]

/-- A combination that is not 0 has a weight. -/
theorem Cyc.one_le_weight (hn : 0 < n) {a : Cyc} (hlen : a.length = n) (h : Cyc.value n a ≠ 0) :
    (1 : ℝ) ≤ Cyc.weight a := by
  rw [Cyc.value_eq_valueAt] at h
  have hpos : (0 : ℝ) < Cyc.weight a :=
    (norm_pos_iff.2 h).trans_le (Cyc.norm_valueAt_le hn hlen (zeta_isPrimitiveRoot hn).pow_eq_one)
  exact_mod_cast hpos

/-- A combination that is not 0 is at least weight^(1 - n) in size. -/
theorem Cyc.one_le_norm_mul_weight_pow (hn : 0 < n) {a : Cyc} (hlen : a.length = n) (h : Cyc.value n a ≠ 0) :
    1 ≤ ‖Cyc.value n a‖ * (Cyc.weight a : ℝ) ^ (n - 1) := by
  classical
  have hw := Cyc.one_le_weight hn hlen h
  have hζ := zeta_isPrimitiveRoot hn
  have hmem : zeta n ∈ primitiveRoots n ℂ := (mem_primitiveRoots hn).2 hζ
  rw [Cyc.value_eq_valueAt] at h ⊢
  obtain ⟨N, hN⟩ := Cyc.exists_int_eq_prod_conjugates hn a
  have hN0 : N ≠ 0 := by
    rintro rfl
    rw [Int.cast_zero, eq_comm, Finset.prod_eq_zero_iff] at hN
    obtain ⟨ω, hω, hzero⟩ := hN
    exact h (Cyc.valueAt_eq_zero_of_isPrimitiveRoot hn ((mem_primitiveRoots hn).1 hω) hζ hzero)
  have hle : ∀ ω ∈ primitiveRoots n ℂ, ‖Cyc.valueAt n a ω‖ ≤ Cyc.weight a := fun ω hω =>
    Cyc.norm_valueAt_le hn hlen ((mem_primitiveRoots hn).1 hω).pow_eq_one
  have hcard : ((primitiveRoots n ℂ).erase (zeta n)).card ≤ n - 1 := by
    rw [Finset.card_erase_of_mem hmem, hζ.card_primitiveRoots]
    exact Nat.sub_le_sub_right (Nat.totient_le n) 1
  calc (1 : ℝ) ≤ ‖(N : ℂ)‖ := by
        rw [Complex.norm_intCast]
        exact_mod_cast Int.one_le_abs hN0
    _ = ‖Cyc.valueAt n a (zeta n)‖ * ∏ ω ∈ (primitiveRoots n ℂ).erase (zeta n), ‖Cyc.valueAt n a ω‖ := by
        rw [hN, norm_prod, Finset.mul_prod_erase _ (fun ω => ‖Cyc.valueAt n a ω‖) hmem]
    _ ≤ ‖Cyc.valueAt n a (zeta n)‖ * (Cyc.weight a : ℝ) ^ ((primitiveRoots n ℂ).erase (zeta n)).card := by
        gcongr
        rw [← Finset.prod_const]
        exact Finset.prod_le_prod (fun _ _ => norm_nonneg _) fun ω hω => hle ω (Finset.mem_of_mem_erase hω)
    _ ≤ ‖Cyc.valueAt n a (zeta n)‖ * (Cyc.weight a : ℝ) ^ (n - 1) := by
        gcongr

end

end Sys2Proof.Machine
end

section
/-! SUPPORT. The sign decision of Cyclotomic.lean (log entry 10): the integer evaluation of cos(π/n), the error of the
Chebyshev sum that uses it, and the precision that settles a sign. -/

namespace Sys2Proof.Machine

/-! ### cos(π/n) to p bits -/

/-- With a/2^p = cos θ, the test from the k-th value on says that sin((k+1)θ), sin((k+2)θ), ... are positive. -/
theorem aboveCosPi_iff_sin {p a : ℕ} {θ : ℝ} (hθ : 0 < Real.sin θ) (ha : (a : ℝ) = 2 ^ p * Real.cos θ) (m k : ℕ)
    {u v : ℤ} (hu : (u : ℝ) * Real.sin θ * 2 ^ p = 2 ^ (p * k) * Real.sin (k * θ))
    (hv : (v : ℝ) * Real.sin θ = 2 ^ (p * k) * Real.sin ((k + 1) * θ)) :
    aboveCosPi p a m u v = true ↔ ∀ j < m, 0 < Real.sin ((k + 1 + j) * θ) := by
  induction m generalizing k u v with
  | zero => simp [aboveCosPi]
  | succ m ih =>
    have hpow : (2 : ℝ) ^ (p * (k + 1)) = 2 ^ p * 2 ^ (p * k) := by rw [← pow_add]; ring_nf
    have hu' : (v : ℝ) * Real.sin θ * 2 ^ p = 2 ^ (p * (k + 1)) * Real.sin (((k + 1 : ℕ) : ℝ) * θ) := by
      rw [hv, hpow]
      push_cast
      ring
    have hsin : Real.sin ((k + 2) * θ) = 2 * Real.cos θ * Real.sin ((k + 1) * θ) - Real.sin (k * θ) := by
      have h1 : ((k : ℝ) + 2) * θ = (k + 1) * θ + θ := by ring
      have h2 : (k : ℝ) * θ = (k + 1) * θ - θ := by ring
      rw [h1, h2, Real.sin_add, Real.sin_sub]
      ring
    have hv' : ((2 * a * v - 2 ^ (2 * p) * u : ℤ) : ℝ) * Real.sin θ =
        2 ^ (p * (k + 1)) * Real.sin ((((k + 1 : ℕ) : ℝ) + 1) * θ) := by
      have e1 : ((2 * a * v - 2 ^ (2 * p) * u : ℤ) : ℝ) * Real.sin θ =
          2 * a * (v * Real.sin θ) - 2 ^ p * (u * Real.sin θ * 2 ^ p) := by
        push_cast
        ring
      have e2 : (((k + 1 : ℕ) : ℝ) + 1) * θ = (k + 2) * θ := by
        push_cast
        ring
      rw [e1, hv, hu, ha, e2, hsin, hpow]
      ring
    have hpos : 0 < v ↔ 0 < Real.sin ((k + 1) * θ) := by
      have h2 : (0 : ℝ) < 2 ^ (p * k) := by positivity
      rw [← Int.cast_pos (R := ℝ), ← mul_pos_iff_of_pos_right hθ, hv, mul_pos_iff_of_pos_left h2]
    rw [aboveCosPi, Bool.and_eq_true, decide_eq_true_eq, hpos, ih (k + 1) hu' hv']
    constructor
    · rintro ⟨h0, h⟩ j hj
      rcases j with _ | j
      · simpa using h0
      · have := h j (by omega)
        push_cast at this ⊢
        rwa [show (k : ℝ) + 1 + (j + 1) = k + 1 + 1 + j by ring]
    · intro h
      refine ⟨by simpa using h 0 (by omega), fun j hj => ?_⟩
      have := h (j + 1) (by omega)
      push_cast at this ⊢
      rwa [show (k : ℝ) + 1 + 1 + j = k + 1 + (j + 1) by ring]

/-- sin θ, ..., sin nθ are positive exactly when nθ < π, for θ up to π/2. -/
theorem forall_sin_pos_iff {n : ℕ} {θ : ℝ} (h0 : 0 < θ) (h2 : θ ≤ Real.pi / 2) :
    (∀ j < n, 0 < Real.sin (((j : ℕ) + 1) * θ)) ↔ n * θ < Real.pi := by
  constructor
  · intro h
    induction n with
    | zero => simpa using Real.pi_pos
    | succ n ih =>
      have hprev := ih fun j hj => h j (by omega)
      by_contra hge
      push Not at hge
      push_cast at hge
      have hlast := h n (by omega)
      have hnonpos : Real.sin ((n + 1) * θ) ≤ 0 := by
        have e : Real.sin ((n + 1) * θ) = -Real.sin ((n + 1) * θ - Real.pi) := by rw [Real.sin_sub_pi, neg_neg]
        have := Real.sin_nonneg_of_nonneg_of_le_pi (x := (n + 1) * θ - Real.pi) (by linarith) (by linarith)
        linarith
      linarith
  · intro h j hj
    have hj' : (j : ℝ) + 1 ≤ n := by exact_mod_cast hj
    exact Real.sin_pos_of_pos_of_lt_pi (by positivity) (by nlinarith)

/-- The test is exact (n ≥ 2, 0 ≤ a < 2^p). -/
theorem aboveCosPi_iff {n p a : ℕ} (hn : 2 ≤ n) (ha : a < 2 ^ p) :
    aboveCosPi p a n 0 1 = true ↔ 2 ^ p * Real.cos (Real.pi / n) < a := by
  have hP : (0 : ℝ) < 2 ^ p := by positivity
  have hlt : (a : ℝ) / 2 ^ p < 1 := by
    rw [div_lt_one hP]
    exact_mod_cast ha
  have hge : 0 ≤ (a : ℝ) / 2 ^ p := by positivity
  have hcos : Real.cos (Real.arccos (a / 2 ^ p)) = a / 2 ^ p := Real.cos_arccos (by linarith) hlt.le
  have hpos : 0 < Real.arccos (a / 2 ^ p) := Real.arccos_pos.2 hlt
  have hhalf : Real.arccos (a / 2 ^ p) ≤ Real.pi / 2 := Real.arccos_le_pi_div_two.2 hge
  have hnpos : (0 : ℝ) < n := by exact_mod_cast (by omega : 0 < n)
  have hle : Real.pi / n ≤ Real.pi := div_le_self Real.pi_pos.le (by exact_mod_cast (by omega : 1 ≤ n))
  have hsin := aboveCosPi_iff_sin (p := p) (a := a) (u := 0) (v := 1)
    (Real.sin_pos_of_pos_of_lt_pi hpos (by linarith [Real.pi_pos])) (by rw [hcos]; field_simp) n 0 (by simp) (by simp)
  have hall : (∀ j < n, 0 < Real.sin (((0 : ℕ) + 1 + j) * Real.arccos (a / 2 ^ p))) ↔
      n * Real.arccos (a / 2 ^ p) < Real.pi := by
    rw [← forall_sin_pos_iff hpos hhalf]
    simp only [Nat.cast_zero, zero_add, add_comm (1 : ℝ)]
  rw [hsin, hall, mul_comm, ← lt_div_iff₀ hnpos, mul_comm, ← lt_div_iff₀ hP,
    ← Real.strictAntiOn_cos.lt_iff_gt ⟨by positivity, hle⟩ ⟨Real.arccos_nonneg _, Real.arccos_le_pi _⟩, hcos]

/-- The bits found so far are at most 2^p·cos(π/n), and less than what the bits to come can add away from it. -/
theorem cosPiFloor_spec {n p : ℕ} (hn : 2 ≤ n) (b : ℕ) {a : ℕ} (htop : a + 2 ^ b ≤ 2 ^ p)
    (hlo : (a : ℝ) ≤ 2 ^ p * Real.cos (Real.pi / n)) (hhi : 2 ^ p * Real.cos (Real.pi / n) < a + 2 ^ b) :
    (cosPiFloor n p b a : ℝ) ≤ 2 ^ p * Real.cos (Real.pi / n) ∧
      2 ^ p * Real.cos (Real.pi / n) < cosPiFloor n p b a + 1 := by
  induction b generalizing a with
  | zero => exact ⟨hlo, by simpa [cosPiFloor] using hhi⟩
  | succ b ih =>
    have hb : 0 < 2 ^ b := by positivity
    rw [pow_succ] at htop hhi
    have habove := aboveCosPi_iff (a := a + 2 ^ b) hn (p := p) (by omega)
    push_cast at habove
    rw [cosPiFloor]
    split_ifs with h
    · exact ih (by omega) hlo (habove.1 h)
    · have hle := not_lt.1 (mt habove.2 h)
      exact ih (by omega) (by exact_mod_cast hle) (by push_cast; linarith)

/-- cos(π/n) to p bits (n ≥ 2). -/
theorem cosPiFloor_eq {n : ℕ} (hn : 2 ≤ n) (p : ℕ) : (cosPiFloor n p p 0 : ℝ) ≤ 2 ^ p * Real.cos (Real.pi / n) ∧
    2 ^ p * Real.cos (Real.pi / n) < cosPiFloor n p p 0 + 1 := by
  have hn2 : (2 : ℝ) ≤ n := by exact_mod_cast hn
  have hπ : 0 < Real.pi / n := div_pos Real.pi_pos (by linarith)
  have hhalf : Real.pi / n ≤ Real.pi / 2 := div_le_div_of_nonneg_left Real.pi_pos.le two_pos hn2
  have h0 : 0 ≤ Real.cos (Real.pi / n) := Real.cos_nonneg_of_mem_Icc ⟨by linarith, hhalf⟩
  have h1 : Real.cos (Real.pi / n) < 1 := by
    rw [← Real.cos_zero]
    exact Real.cos_lt_cos_of_nonneg_of_le_pi le_rfl (by linarith [Real.pi_pos]) hπ
  have hP : (0 : ℝ) < 2 ^ p := by positivity
  exact cosPiFloor_spec hn p (by omega) (by simpa using mul_nonneg hP.le h0) (by simpa using mul_lt_of_lt_one_right hP h1)

/-- Adding bits from 0 stays below 2^p, whatever the test says. -/
theorem cosPiFloor_lt (n p b : ℕ) {a : ℕ} (h : a + 2 ^ b ≤ 2 ^ p) : cosPiFloor n p b a < 2 ^ p := by
  induction b generalizing a with
  | zero => simpa [cosPiFloor] using h
  | succ b ih =>
    rw [pow_succ] at h
    rw [cosPiFloor]
    split_ifs
    · exact ih (by omega)
    · exact ih (by omega)

/-! ### The Chebyshev sum -/

/-- Three successive scaled cosines, by which the Chebyshev polynomials are computed. -/
theorem scaled_cos_step {p m : ℕ} {c y z : ℤ} {φ : ℝ} (hc : (c : ℝ) = 2 ^ p * Real.cos φ)
    (hy : (y : ℝ) = 2 ^ (p * m) * Real.cos (m * φ)) (hz : (z : ℝ) = 2 ^ (p * (m + 1)) * Real.cos ((m + 1 : ℕ) * φ)) :
    ((2 * c * z - 2 ^ (2 * p) * y : ℤ) : ℝ) = 2 ^ (p * (m + 2)) * Real.cos ((m + 2 : ℕ) * φ) := by
  have h1 : ((m + 2 : ℕ) : ℝ) * φ = (m + 1 : ℕ) * φ + φ := by push_cast; ring
  have h2 : (m : ℝ) * φ = (m + 1 : ℕ) * φ - φ := by push_cast; ring
  rw [h2, Real.cos_sub] at hy
  rw [h1, Real.cos_add]
  push_cast at hy hz ⊢
  rw [hc, hy, hz]
  ring

/-- With c/2^p = cos φ the Chebyshev sum is the scaled sum of the multiples' cosines. -/
theorem chebyshevSum_eq {p : ℕ} {c : ℤ} {φ : ℝ} (hc : (c : ℝ) = 2 ^ p * Real.cos φ) (xs : List ℤ) (k : ℕ) {t u : ℤ}
    (ht : (t : ℝ) = 2 ^ (p * k) * Real.cos (k * φ))
    (hu : (u : ℝ) = 2 ^ (p * (k + 1)) * Real.cos ((k + 1 : ℕ) * φ)) :
    (chebyshevSum p c xs t u : ℝ) = 2 ^ (p * k + 2 * p * xs.length) *
      ∑ j ∈ Finset.range xs.length, (Cyc.coef xs j : ℝ) * Real.cos ((k + 2 * j : ℕ) * φ) := by
  induction xs generalizing k t u with
  | nil => simp [chebyshevSum]
  | cons x xs ih =>
    have ht2 := scaled_cos_step hc ht hu
    have hu2 := scaled_cos_step hc hu ht2
    have hexp : ∀ j, k + 2 * (j + 1) = k + 2 + 2 * j := fun j => by omega
    have hhead : Cyc.coef (x :: xs) 0 = x := rfl
    have htail : ∀ j, Cyc.coef (x :: xs) (j + 1) = Cyc.coef xs j := fun _ => rfl
    rw [chebyshevSum, Int.cast_add, ih (k + 2) ht2 hu2, List.length_cons, Finset.sum_range_succ']
    simp only [hexp, hhead, htail, mul_zero, add_zero]
    push_cast
    rw [ht]
    ring

/-! ### The error of the Chebyshev sum -/

/-- |sin jx| ≤ j·|sin x|. -/
theorem abs_sin_nat_mul_le (j : ℕ) (x : ℝ) : |Real.sin (j * x)| ≤ j * |Real.sin x| := by
  induction j with
  | zero => simp
  | succ j ih =>
    have e : ((j + 1 : ℕ) : ℝ) * x = j * x + x := by push_cast; ring
    rw [e, Real.sin_add]
    calc |Real.sin (j * x) * Real.cos x + Real.cos (j * x) * Real.sin x|
        ≤ |Real.sin (j * x)| * |Real.cos x| + |Real.cos (j * x)| * |Real.sin x| := by
          rw [← abs_mul, ← abs_mul]
          exact abs_add_le _ _
      _ ≤ |Real.sin (j * x)| * 1 + 1 * |Real.sin x| := by
          gcongr
          · exact Real.abs_cos_le_one x
          · exact Real.abs_cos_le_one (j * x)
      _ ≤ ((j + 1 : ℕ) : ℝ) * |Real.sin x| := by
          push_cast
          linarith

/-- |cos 2jφ - cos 2jψ| ≤ (2j)²·|cos φ - cos ψ|. -/
theorem abs_cos_two_nat_mul_sub_le (j : ℕ) (φ ψ : ℝ) : |Real.cos ((2 * j : ℕ) * φ) - Real.cos ((2 * j : ℕ) * ψ)| ≤
    (2 * j) ^ 2 * |Real.cos φ - Real.cos ψ| := by
  have hprod : ∀ x y : ℝ, |Real.cos (2 * x) - Real.cos (2 * y)| = 2 * (|Real.sin (x + y)| * |Real.sin (x - y)|) := by
    intro x y
    rw [Real.cos_sub_cos, abs_mul, abs_mul, abs_neg, abs_two]
    ring_nf
  have hdouble : |Real.cos (2 * φ) - Real.cos (2 * ψ)| ≤ 4 * |Real.cos φ - Real.cos ψ| := by
    rw [Real.cos_two_mul, Real.cos_two_mul]
    have e : 2 * Real.cos φ ^ 2 - 1 - (2 * Real.cos ψ ^ 2 - 1) =
        2 * ((Real.cos φ + Real.cos ψ) * (Real.cos φ - Real.cos ψ)) := by ring
    have hsum : |Real.cos φ + Real.cos ψ| ≤ 2 := by
      linarith [abs_add_le (Real.cos φ) (Real.cos ψ), Real.abs_cos_le_one φ, Real.abs_cos_le_one ψ]
    rw [e, abs_mul, abs_mul, abs_two]
    nlinarith [abs_nonneg (Real.cos φ - Real.cos ψ)]
  have e : ∀ x : ℝ, ((2 * j : ℕ) : ℝ) * x = 2 * (j * x) := fun x => by push_cast; ring
  rw [e, e, hprod, ← mul_add, ← mul_sub]
  calc 2 * (|Real.sin (j * (φ + ψ))| * |Real.sin (j * (φ - ψ))|)
      ≤ 2 * ((j * |Real.sin (φ + ψ)|) * (j * |Real.sin (φ - ψ)|)) := by
        gcongr
        · exact abs_sin_nat_mul_le j _
        · exact abs_sin_nat_mul_le j _
    _ = j ^ 2 * |Real.cos (2 * φ) - Real.cos (2 * ψ)| := by
        rw [hprod]
        ring
    _ ≤ (2 * j) ^ 2 * |Real.cos φ - Real.cos ψ| := by
        rw [show ((2 : ℝ) * j) ^ 2 = j ^ 2 * 4 by ring, mul_assoc]
        gcongr

/-- The real part of a combination, as the cosines of the even multiples of π/n. -/
theorem Cyc.value_re (n : ℕ) (a : Cyc) :
    (Cyc.value n a).re = ∑ j ∈ Finset.range n, (Cyc.coef a j : ℝ) * Real.cos ((2 * j : ℕ) * (Real.pi / n)) := by
  unfold Cyc.value cis
  rw [Complex.re_sum]
  refine Finset.sum_congr rfl fun j _ => ?_
  have e : 2 * Real.pi * j / n = (2 * j : ℕ) * (Real.pi / n) := by push_cast; ring
  rw [Complex.mul_re, Complex.intCast_re, Complex.intCast_im, zero_mul, sub_zero, Complex.exp_ofReal_mul_I_re, e]

/-- The p bits of cos(π/n) as a number. -/
noncomputable def approxCos (n p : ℕ) : ℝ := (cosPiFloor n p p 0 : ℕ) / 2 ^ p

/-- It is the cosine of an angle. -/
theorem cos_arccos_approxCos (n p : ℕ) : Real.cos (Real.arccos (approxCos n p)) = approxCos n p := by
  have h0 : 0 ≤ approxCos n p := by unfold approxCos; positivity
  have h1 : approxCos n p ≤ 1 := by
    have hlt : (cosPiFloor n p p 0 : ℝ) < 2 ^ p := by exact_mod_cast cosPiFloor_lt n p p (by omega)
    exact ((div_lt_one (by positivity)).2 hlt).le
  exact Real.cos_arccos (by linarith) h1

theorem abs_approxCos_sub_le {n : ℕ} (hn : 2 ≤ n) (p : ℕ) : |approxCos n p - Real.cos (Real.pi / n)| ≤ 1 / 2 ^ p := by
  have hP : (0 : ℝ) < 2 ^ p := by positivity
  obtain ⟨hlo, hhi⟩ := cosPiFloor_eq hn p
  have e : approxCos n p - Real.cos (Real.pi / n) =
      ((cosPiFloor n p p 0 : ℕ) - 2 ^ p * Real.cos (Real.pi / n)) / 2 ^ p := by
    unfold approxCos
    field_simp
  rw [e, abs_div, abs_of_pos hP]
  gcongr
  exact abs_le.2 ⟨by linarith, by linarith⟩

/-- The error of one term; the term of degree 0 has none, so n = 1 needs no cosine. -/
theorem abs_cos_approx_sub_le {n j : ℕ} (hj : j < n) (p : ℕ) :
    |Real.cos ((2 * j : ℕ) * Real.arccos (approxCos n p)) - Real.cos ((2 * j : ℕ) * (Real.pi / n))| ≤
      4 * n ^ 2 / 2 ^ p := by
  rcases Nat.eq_zero_or_pos j with rfl | hj0
  · simp only [mul_zero, Nat.cast_zero, zero_mul, sub_self, abs_zero]
    positivity
  · have hjn : (j : ℝ) ≤ n := by exact_mod_cast hj.le
    have herr := abs_approxCos_sub_le (n := n) (by omega) p
    calc _ ≤ (2 * (j : ℝ)) ^ 2 * |Real.cos (Real.arccos (approxCos n p)) - Real.cos (Real.pi / n)| :=
          abs_cos_two_nat_mul_sub_le j _ _
      _ ≤ (2 * (n : ℝ)) ^ 2 * (1 / 2 ^ p) := by
          rw [cos_arccos_approxCos]
          gcongr
      _ = 4 * n ^ 2 / 2 ^ p := by ring

/-- The machine's sum for the combination `a` at p bits, scaled by 2^(2pn). -/
def Cyc.scaledSum (n p : ℕ) (a : Cyc) : ℤ := chebyshevSum p (cosPiFloor n p p 0 : ℕ) a 1 (cosPiFloor n p p 0 : ℕ)

/-- The machine's sum differs from the real part by at most 4·n²·weight/2^p, both scaled by 2^(2pn). -/
theorem Cyc.abs_scaledSum_sub_le {n : ℕ} {a : Cyc} (hlen : a.length = n) (p : ℕ) :
    |(Cyc.scaledSum n p a : ℝ) - 2 ^ (2 * p * n) * (Cyc.value n a).re| ≤
      2 ^ (2 * p * n) * (4 * n ^ 2 / 2 ^ p * Cyc.weight a) := by
  have hc : (((cosPiFloor n p p 0 : ℕ) : ℤ) : ℝ) = 2 ^ p * Real.cos (Real.arccos (approxCos n p)) := by
    rw [cos_arccos_approxCos, approxCos]
    field_simp
    push_cast
    rfl
  have hsum := chebyshevSum_eq hc a 0 (t := 1) (by simp)
    (by rw [zero_add, mul_one, Nat.cast_one, one_mul, hc])
  simp only [zero_add, mul_zero, hlen] at hsum
  rw [Cyc.scaledSum, hsum, Cyc.value_re, ← mul_sub, abs_mul, abs_of_pos (by positivity), ← Finset.sum_sub_distrib,
    Cyc.weight_eq_sum hlen, Finset.mul_sum]
  gcongr
  refine (Finset.abs_sum_le_sum_abs _ _).trans (Finset.sum_le_sum fun j hj => ?_)
  rw [← mul_sub, abs_mul, mul_comm]
  gcongr
  exact abs_cos_approx_sub_le (Finset.mem_range.1 hj) p

/-! ### The sign -/

/-- The bound the machine takes for the error of the scaled sum. -/
def Cyc.errorBound (n p : ℕ) (a : Cyc) : ℤ := 4 * n ^ 2 * Cyc.weight a * 2 ^ (2 * p * n) / 2 ^ p + 1

theorem Cyc.signAt_eq (n p : ℕ) (a : Cyc) : Cyc.signAt n p a =
    if Cyc.errorBound n p a < Cyc.scaledSum n p a then some true
    else if Cyc.scaledSum n p a < -Cyc.errorBound n p a then some false else none := rfl

/-- The error bound is the true one, rounded up by at most 1. -/
theorem Cyc.errorBound_spec (n p : ℕ) (a : Cyc) :
    2 ^ (2 * p * n) * (4 * n ^ 2 / 2 ^ p * Cyc.weight a) < (Cyc.errorBound n p a : ℝ) ∧
      (Cyc.errorBound n p a : ℝ) ≤ 2 ^ (2 * p * n) * (4 * n ^ 2 / 2 ^ p * Cyc.weight a) + 1 := by
  have hP : (0 : ℝ) < 2 ^ p := by positivity
  have e : (2 : ℝ) ^ (2 * p * n) * (4 * n ^ 2 / 2 ^ p * Cyc.weight a) =
      ((4 * n ^ 2 * Cyc.weight a * 2 ^ (2 * p * n) : ℤ) : ℝ) / 2 ^ p := by
    push_cast
    ring
  have hlt := Int.lt_ediv_add_one_mul_self (4 * n ^ 2 * Cyc.weight a * 2 ^ (2 * p * n)) (b := 2 ^ p) (by positivity)
  have hle := Int.ediv_mul_le (4 * n ^ 2 * Cyc.weight a * 2 ^ (2 * p * n)) (b := 2 ^ p) (by positivity)
  rw [e, div_lt_iff₀ hP, ← sub_le_iff_le_add, le_div_iff₀ hP]
  unfold Cyc.errorBound
  constructor
  · exact_mod_cast hlt
  · push_cast
    rw [add_sub_cancel_right]
    exact_mod_cast hle

section
variable {n : ℕ} {a : Cyc}

/-- A sign that is answered is the sign. -/
theorem Cyc.signAt_sound (hlen : a.length = n) {p : ℕ} {b : Bool} (h : Cyc.signAt n p a = some b) :
    b = true ↔ 0 < (Cyc.value n a).re := by
  have hS : (0 : ℝ) < 2 ^ (2 * p * n) := by positivity
  obtain ⟨herr, -⟩ := Cyc.errorBound_spec n p a
  obtain ⟨hlo, hhi⟩ := abs_le.1 (Cyc.abs_scaledSum_sub_le hlen p)
  rw [Cyc.signAt_eq] at h
  split_ifs at h with hpos hneg
  · have : (Cyc.errorBound n p a : ℝ) < Cyc.scaledSum n p a := by exact_mod_cast hpos
    cases h
    exact iff_of_true rfl (pos_of_mul_pos_right (by linarith) hS.le)
  · have : (Cyc.scaledSum n p a : ℝ) < -Cyc.errorBound n p a := by exact_mod_cast hneg
    cases h
    exact iff_of_false (by decide) fun h0 => by linarith [mul_pos hS h0]

/-- Where no sign is answered, the number is within twice the error of 0. -/
theorem Cyc.abs_re_mul_le_of_signAt_eq_none (hn : 0 < n) (hlen : a.length = n) (hw : (1 : ℝ) ≤ Cyc.weight a) {p : ℕ}
    (h : Cyc.signAt n p a = none) : |(Cyc.value n a).re| * 2 ^ p ≤ 9 * (n ^ 2 * Cyc.weight a) := by
  have hS : (0 : ℝ) < 2 ^ (2 * p * n) := by positivity
  have hPS : (2 : ℝ) ^ p ≤ 2 ^ (2 * p * n) := pow_le_pow_right₀ one_le_two (by nlinarith)
  have hn1 : (1 : ℝ) ≤ n ^ 2 * Cyc.weight a :=
    one_le_mul_of_one_le_of_one_le (one_le_pow₀ (by exact_mod_cast hn)) hw
  obtain ⟨-, herr⟩ := Cyc.errorBound_spec n p a
  have hdiff := Cyc.abs_scaledSum_sub_le hlen p
  rw [Cyc.signAt_eq] at h
  split_ifs at h with hpos hneg
  have hsum : |(Cyc.scaledSum n p a : ℝ)| ≤ Cyc.errorBound n p a := by
    exact_mod_cast abs_le.2 ⟨not_lt.1 hneg, not_lt.1 hpos⟩
  have htri := abs_sub_abs_le_abs_sub (2 ^ (2 * p * n) * (Cyc.value n a).re) (Cyc.scaledSum n p a : ℝ)
  rw [abs_sub_comm, abs_mul, abs_of_pos hS] at htri
  refine le_of_mul_le_mul_left ?_ hS
  calc (2 : ℝ) ^ (2 * p * n) * (|(Cyc.value n a).re| * 2 ^ p)
      = 2 ^ (2 * p * n) * |(Cyc.value n a).re| * 2 ^ p := by ring
    _ ≤ (2 * (2 ^ (2 * p * n) * (4 * n ^ 2 / 2 ^ p * Cyc.weight a)) + 1) * 2 ^ p := by
        gcongr
        linarith
    _ = 8 * (2 ^ (2 * p * n) * (n ^ 2 * Cyc.weight a)) + 2 ^ p := by
        field_simp
        ring
    _ ≤ 8 * (2 ^ (2 * p * n) * (n ^ 2 * Cyc.weight a)) + 2 ^ (2 * p * n) * (n ^ 2 * Cyc.weight a) := by
        gcongr
        exact hPS.trans (le_mul_of_one_le_right hS.le hn1)
    _ = 2 ^ (2 * p * n) * (9 * (n ^ 2 * Cyc.weight a)) := by ring

/-- The bits of `Cyc.enoughBits` are enough for 256·n²·weight^n. -/
theorem Cyc.le_two_pow_enoughBits (n : ℕ) (a : Cyc) :
    256 * (n ^ 2 * Cyc.weight a ^ n) ≤ 2 ^ Cyc.enoughBits n a := by
  have hw : Cyc.weight a ^ n ≤ (2 ^ (Nat.log2 (Cyc.weight a) + 1)) ^ n := Nat.pow_le_pow_left Nat.lt_log2_self.le n
  have hn : n ^ 2 ≤ (2 ^ (Nat.log2 n + 1)) ^ 2 := Nat.pow_le_pow_left Nat.lt_log2_self.le 2
  calc 256 * (n ^ 2 * Cyc.weight a ^ n)
      ≤ 2 ^ 8 * ((2 ^ (Nat.log2 n + 1)) ^ 2 * (2 ^ (Nat.log2 (Cyc.weight a) + 1)) ^ n) :=
        Nat.mul_le_mul_left _ (Nat.mul_le_mul hn hw)
    _ = 2 ^ Cyc.enoughBits n a := by
        rw [← pow_mul, ← pow_mul, ← pow_add, ← pow_add]
        congr 1
        unfold Cyc.enoughBits
        ring

/-- With enough bits the sign of a real number that is not 0 is answered. -/
theorem Cyc.signAt_ne_none (hn : 0 < n) (hlen : a.length = n) (him : (Cyc.value n a).im = 0) (h0 : Cyc.value n a ≠ 0)
    {p : ℕ} (hp : Cyc.enoughBits n a ≤ p) : Cyc.signAt n p a ≠ none := by
  intro hnone
  have hw := Cyc.one_le_weight hn hlen h0
  have hbig := Cyc.one_le_norm_mul_weight_pow hn hlen h0
  have hsmall := Cyc.abs_re_mul_le_of_signAt_eq_none hn hlen hw hnone
  rw [Complex.abs_re_eq_norm.2 him] at hsmall
  have hP : (0 : ℝ) < 2 ^ p := by positivity
  have hbits : 256 * ((n : ℝ) ^ 2 * (Cyc.weight a : ℝ) ^ n) ≤ 2 ^ p := by
    exact_mod_cast (Cyc.le_two_pow_enoughBits n a).trans (Nat.pow_le_pow_right two_pos hp)
  have hle : (2 : ℝ) ^ p ≤ 9 * (n ^ 2 * (Cyc.weight a : ℝ) ^ n) := by
    calc (2 : ℝ) ^ p ≤ ‖Cyc.value n a‖ * (Cyc.weight a : ℝ) ^ (n - 1) * 2 ^ p := le_mul_of_one_le_left hP.le hbig
      _ = ‖Cyc.value n a‖ * 2 ^ p * (Cyc.weight a : ℝ) ^ (n - 1) := by ring
      _ ≤ 9 * (n ^ 2 * Cyc.weight a) * (Cyc.weight a : ℝ) ^ (n - 1) := by gcongr
      _ = 9 * (n ^ 2 * (Cyc.weight a : ℝ) ^ n) := by rw [mul_assoc, mul_assoc, mul_pow_sub_one hn.ne']
  linarith

/-- The sign from rising precision is right as soon as the last precision is enough. -/
theorem Cyc.positiveFrom_iff (hlen : a.length = n) {N : ℕ} (hN : ∀ p, N ≤ p → Cyc.signAt n p a ≠ none) (fuel : ℕ)
    {p : ℕ} (hp : N ≤ p * 2 ^ fuel) : Cyc.positiveFrom n a (fuel + 1) p = true ↔ 0 < (Cyc.value n a).re := by
  induction fuel generalizing p with
  | zero =>
    rw [Cyc.positiveFrom]
    split
    · rename_i b hb
      exact Cyc.signAt_sound hlen hb
    · rename_i hnone
      exact absurd hnone (hN p (by simpa using hp))
  | succ fuel ih =>
    rw [Cyc.positiveFrom]
    split
    · rename_i b hb
      exact Cyc.signAt_sound hlen hb
    · exact ih (by rw [pow_succ] at hp; linarith)

/-- The precision that `Cyc.nonneg` ends with is enough. -/
theorem Cyc.enoughBits_le (n : ℕ) (a : Cyc) : Cyc.enoughBits n a ≤ 32 * 2 ^ (Nat.log2 (Cyc.enoughBits n a) + 1) := by
  have := Nat.lt_log2_self (n := Cyc.enoughBits n a)
  omega

end

/-- Settles O26: the zero test is exact, and a real number that is not 0 is far enough from 0 for the last precision. -/
theorem cyclotomicSignIsExact : Obligations.CyclotomicSignIsExact := by
  intro n a hn hlen him
  rw [Cyc.nonneg, Bool.or_eq_true, Cyc.isZero_iff hn hlen]
  by_cases h0 : Cyc.value n a = 0
  · simp [h0]
  · have hre : (Cyc.value n a).re ≠ 0 := fun hre => h0 (Complex.ext hre him)
    rw [Cyc.positiveFrom_iff hlen (fun p => Cyc.signAt_ne_none hn hlen him h0) _ (Cyc.enoughBits_le n a), or_iff_right h0,
      lt_iff_le_and_ne, and_iff_left hre.symm]

end Sys2Proof.Machine
end

section
/-! SUPPORT. The host's register accesses (R17, R18, R48): one step of each kind, at the platform address by R17's numbers;
and words as numbers. -/

namespace Sys2Proof.Machine

/-! ### Words and numbers -/

/-- Concatenation as arithmetic. -/
theorem toNat_append_eq_add {m n : Nat} (x : BitVec m) (y : BitVec n) :
    (x ++ y).toNat = x.toNat * 2 ^ n + y.toNat := by
  rw [BitVec.toNat_append, ← Nat.shiftLeft_add_eq_or_of_lt y.isLt, Nat.shiftLeft_eq]

/-- A bit as arithmetic. -/
theorem getLsbD_eq_decide {n : Nat} (v : BitVec n) (i : Nat) : v.getLsbD i = decide (v.toNat / 2 ^ i % 2 = 1) :=
  Nat.testBit_eq_decide_div_mod_eq

/-- A W1C bit: it is cleared where the written bit is 1 (R22). -/
theorem and_not_getLsbD (b : Bool) {n : Nat} (v : BitVec n) (i : Nat) :
    (b && !v.getLsbD i) = if v.toNat / 2 ^ i % 2 = 1 then false else b := by
  rw [getLsbD_eq_decide]
  split <;> simp_all

/-- A field zero-extended to a word keeps its number (R18). -/
theorem toNat_zeroExtend_word {n : Nat} (x : BitVec n) (h : n ≤ 32) : (x.zeroExtend 32).toNat = x.toNat :=
  BitVec.toNat_setWidth_of_le h

/-- A field of `n` low bits reads back as the written word under its mask (R18). -/
theorem zeroExtend_low_bits (v : Word) {n : Nat} {mask : Word} (h : n ≤ 32) (hm : mask.toNat = 2 ^ n - 1) :
    (BitVec.ofNat n v.toNat).zeroExtend 32 = v &&& mask := by
  refine BitVec.eq_of_toNat_eq ?_
  rw [toNat_zeroExtend_word _ h, BitVec.toNat_ofNat, BitVec.toNat_and, hm, Nat.and_two_pow_sub_one_eq_mod]

/-- The two halves of a word make the word (R30). -/
theorem halves_append (v : Word) : BitVec.ofNat 16 (v.toNat / 65536) ++ BitVec.ofNat 16 v.toNat = v := by
  refine BitVec.eq_of_toNat_eq ?_
  rw [toNat_append_eq_add, BitVec.toNat_ofNat, BitVec.toNat_ofNat]
  have := v.isLt
  omega

/-! ### Steps -/

/-- R17's table gives the platform address of each register. -/
theorem baseWindow_append_tabledOffset (p : Params) (r : RegName) : p.baseWindow ++ tabledOffset r = regAddr p r := by
  cases r <;> rfl

/-- The state in which a host write takes effect: its turn is over and it is answered (log entries 1, 5, 11). -/
def State.answerWrite (s : State) (rest : List Turn) : State := (s.advance rest).respond .done

section
variable (s : State) (rest : List Turn)

@[simp] theorem State.answerWrite_params : (s.answerWrite rest).params = s.params := rfl
@[simp] theorem State.answerWrite_regs : (s.answerWrite rest).regs = s.regs := rfl
@[simp] theorem State.answerWrite_pmem : (s.answerWrite rest).pmem = s.pmem := rfl
@[simp] theorem State.answerWrite_inflight : (s.answerWrite rest).inflight = s.inflight := rfl
@[simp] theorem State.answerWrite_resetAsserted : (s.answerWrite rest).resetAsserted = s.resetAsserted := rfl
@[simp] theorem State.answerWrite_turns : (s.answerWrite rest).turns = rest := rfl
@[simp] theorem State.answerWrite_resp : (s.answerWrite rest).resp = some .done := rfl

end

@[simp] theorem writeCtrl_turns (v : Word) (s : State) : (writeCtrl v s).turns = s.turns := by
  unfold writeCtrl
  split <;> simp

@[simp] theorem writeCtrl_resetAsserted (v : Word) (s : State) : (writeCtrl v s).resetAsserted = s.resetAsserted := by
  unfold writeCtrl
  split <;> simp

@[simp] theorem regWrite_turns (v : Word) (s : State) (r : RegName) : (regWrite v s r).turns = s.turns := by
  cases r <;> simp [regWrite]

@[simp] theorem regWrite_resetAsserted (v : Word) (s : State) (r : RegName) :
    (regWrite v s r).resetAsserted = s.resetAsserted := by
  cases r <;> simp [regWrite]

section
variable {s : State} {r : RegName} {rest : List Turn}

/-- A host read in the window (R46). -/
theorem step_read_append {x : BitVec 25} {w : Width} (ht : s.turns = .host (.read (s.params.baseWindow ++ x) w) :: rest)
    (h : s.resetAsserted = false) : step s = .next (busRead x.toNat w (s.advanceRead rest)) := by
  simp [step_host ht, hostAccess, inWindow_append, windowOffset_append, h]

/-- A host write in the window (R46). -/
theorem step_write_append {x : BitVec 25} {d : Datum}
    (ht : s.turns = .host (.write (s.params.baseWindow ++ x) d) :: rest) (h : s.resetAsserted = false) :
    step s = busWrite x.toNat d (s.advance rest) := by
  simp [step_host ht, hostAccess, inWindow_append, windowOffset_append, h]

/-- A host read of a register. -/
theorem step_regRead (ht : s.turns = .host (.read (s.params.baseWindow ++ tabledOffset r) .w32) :: rest)
    (h : s.resetAsserted = false) :
    step s = .next ((s.advanceRead rest).respond (.data (.b32 (regRead s r)))) := by
  rw [baseWindow_append_tabledOffset] at ht
  rw [step_host ht, takeTurn_read]
  exact hostAccess_regRead (s := s.advanceRead rest) r h

/-- A host write of a register other than CMD. -/
theorem step_regWrite {v : Word} (hr : r ≠ .cmd)
    (ht : s.turns = .host (.write (s.params.baseWindow ++ tabledOffset r) (.b32 v)) :: rest)
    (h : s.resetAsserted = false) : step s = .next (regWrite v (s.answerWrite rest) r) := by
  rw [baseWindow_append_tabledOffset] at ht
  rw [step_host ht, takeTurn_write]
  exact hostAccess_regWrite (s := s.advance rest) v hr h

/-- A register write then a read of the same register, by the next two turns (R18). -/
theorem step_regWrite_regRead {v : Word} (hr : r ≠ .cmd)
    (ht : s.turns = .host (.write (s.params.baseWindow ++ tabledOffset r) (.b32 v)) ::
      .host (.read (s.params.baseWindow ++ tabledOffset r) .w32) :: rest) (h : s.resetAsserted = false) :
    let t := regWrite v (s.answerWrite (.host (.read (s.params.baseWindow ++ tabledOffset r) .w32) :: rest)) r
    step s = .next t ∧ step t = .next ((t.advanceRead rest).respond (.data (.b32 (regRead t r)))) :=
  ⟨step_regWrite hr ht h, step_regRead (by simp) (by simpa using h)⟩

/-- A host write of CMD. -/
theorem step_cmdWrite {w : Word} (ht : s.turns = .host (.write (s.params.baseWindow ++ 0x010#25) (.b32 w)) :: rest)
    (h : s.resetAsserted = false) : step s = issue w (s.answerWrite rest) := by
  rw [step_host ht, takeTurn_write]
  exact hostAccess_cmd (s := s.advance rest) w h

end

end Sys2Proof.Machine
end

section
/-! SUPPORT. What each register stores and reads (R17 to R36), what a CTRL write with SRST = 1 resets (R146, R147), and the
issue by a CMD write (R27). -/

namespace Sys2Proof.Machine

/-! ### The CMD write and the command words -/

/-- Settles O1: the seven words, one by one. -/
theorem commandWordsDecodeAsTabled : Obligations.CommandWordsDecodeAsTabled := by
  unfold Obligations.CommandWordsDecodeAsTabled
  decide

/-- Settles O4: a CMD write is its word's issue, and the word is a command's. -/
theorem stepIssuesTheDecodedCommand : Obligations.StepIssuesTheDecodedCommand := by
  intro s w i rest ht hr hw
  rw [step_cmdWrite ht hr, issue, hw]
  rfl

/-! ### STATUS (R22 to R26) -/

/-- The STATUS word as a number (R22). -/
theorem statusWord_toNat (g : Regs) :
    g.statusWord.toNat = g.busy.toNat + 2 * g.done.toNat + 4 * g.err.toNat + 16 * g.ovr.toNat + 32 * g.haz.toNat +
      256 * g.errCode.toNat + 65536 * g.lastOp.toNat := by
  unfold Regs.statusWord
  simp only [toNat_append_eq_add, BitVec.toNat_ofBool, BitVec.toNat_ofNat]
  omega

/-- Settles O48: a read of STATUS returns its word. -/
theorem statusWordLayout : Obligations.StatusWordLayout :=
  fun s _ ht hr => ⟨_, _, step_regRead (r := .status) ht hr, rfl, statusWord_toNat s.regs⟩

/-- Settles O49: a STATUS write stores `Regs.writeStatus`. -/
theorem statusWriteClearsOnlyItsBits : Obligations.StatusWriteClearsOnlyItsBits := by
  intro s v rest ht hr
  rw [step_regWrite (r := .status) (by decide) ht hr]
  simp only [regWrite, Regs.writeStatus, and_not_getLsbD]
  rfl

/-! ### ID and CAPS (R19, R20), and the unlisted offsets (R18) -/

/-- CAPS as a number (R20): legal parameters fit their fields. -/
theorem capsWord_toNat {p : Params} (h : p.legal = true) :
    (capsWord p).toNat = p.pmemBytes / 1024 * 65536 + p.maxDim := by
  simp only [Params.legal, Params.maxDimLegal, Params.pmemLegal, Bool.and_eq_true, decide_eq_true_eq] at h
  rw [capsWord, toNat_append_eq_add, BitVec.toNat_ofNat, BitVec.toNat_ofNat, Params.pmemBytes]
  omega

/-- Settles O50: both reads are constants of the parameters, and neither register stores anything. -/
theorem idAndCapsAreConstant : Obligations.IdAndCapsAreConstant := by
  intro s r rest hreg hp hr
  refine ⟨fun ht => ⟨_, _, step_regRead ht hr, rfl, ?_⟩, fun v ht => ?_⟩
  · rcases hreg with rfl | rfl
    · rfl
    · exact capsWord_toNat hp
  · rcases hreg with rfl | rfl
    · exact step_regWrite (by decide) ht hr
    · exact step_regWrite (by decide) ht hr

/-- A listed offset is that of its register (R17). -/
theorem eq_regOffset_of_regAt {off : Nat} {r : RegName} (h : regAt off = some r) : off = regOffset r := by
  unfold regAt at h
  split at h <;> cases h <;> rfl

/-- R17 lists no offset from 0x038 on. -/
theorem regAt_eq_none {off : Nat} (h : 0x038 ≤ off) : regAt off = none := by
  cases hr : regAt off with
  | none => rfl
  | some r =>
    have hoff := eq_regOffset_of_regAt hr
    have hlast : regOffset r < 0x038 := by cases r <;> decide
    omega

/-- A read there returns 0 (R18). -/
theorem busRead_unlisted {off : Nat} (hlo : 0x038 ≤ off) (hhi : off ≤ 0xFFC) (hal : off % 4 = 0) (s : State) :
    busRead off .w32 s = s.respond (.data (.b32 0#32)) := by
  have htarget : target s.params off = .register off := if_pos (by omega)
  simp [busRead, htarget, hal, registerRead, regAt_eq_none hlo]

/-- A write there is answered and ignored (R18). -/
theorem busWrite_unlisted {off : Nat} (hlo : 0x038 ≤ off) (hhi : off ≤ 0xFFC) (hal : off % 4 = 0) (v : Word)
    (s : State) : busWrite off (.b32 v) s = .next (s.respond .done) := by
  have htarget : target s.params off = .register off := if_pos (by omega)
  simp [busWrite, htarget, hal, registerWrite, regAt_eq_none hlo]

/-- Settles O51: the register map has no register there. -/
theorem unlistedOffsetsReadZero : Obligations.UnlistedOffsetsReadZero := by
  intro s off rest hlo hhi hal hr
  refine ⟨fun ht => ⟨_, step_read_append ht hr, ?_⟩, fun v ht => ?_⟩
  · rw [busRead_unlisted hlo hhi hal]
    exact ⟨rfl, rfl, rfl, rfl⟩
  · exact (step_write_append ht hr).trans (busWrite_unlisted hlo hhi hal v _)

/-! ### CTRL (R21, R42, R146) -/

/-- A CTRL write with SRST = 1 is the soft reset (R146). -/
theorem writeCtrl_of_srst {v : Word} (h : v.getLsbD 1 = true) (s : State) : writeCtrl v s = softReset s := if_pos h

/-- A CTRL write with SRST = 0 only stores IE (R146). -/
theorem writeCtrl_of_not_srst {v : Word} (h : v.getLsbD 1 = false) (s : State) :
    writeCtrl v s = { s with regs := { s.regs with ie := v.getLsbD 0 } } := by
  rw [writeCtrl, h]
  rfl

/-- What an abort leaves of the pixel memory, byte by byte (R147). -/
theorem read_abort (s : State) (a : Nat) : Memory.read (abort s).pmem a =
    if ∃ f, s.inflight = some f ∧ f.dst.base ≤ a ∧ a < f.dst.base + f.dst.size then none
    else Memory.read s.pmem a := by
  rw [abort_pmem]
  cases s.inflight with
  | none => simp
  | some f => simp [Memory.read_forget]

/-- Settles O44: such a CTRL write is the soft reset, whose abort forgets the destination only. -/
theorem softResetKeepsPixelMemory : Obligations.SoftResetKeepsPixelMemory := by
  intro s v rest ht hr hv
  have hstep : step s = .next (softReset (s.answerWrite rest)) := by
    rw [step_regWrite (r := .ctrl) (by decide) ht hr, regWrite, writeCtrl_of_srst hv]
  refine ⟨_, hstep, by simp, by simp, by simp, by simp, by simpa using hr, by simp, fun a => ?_⟩
  rw [softReset_pmem, read_abort]
  rfl

/-- Settles O52: the CTRL write only stores IE, and the STATUS write clears DONE. -/
theorem interruptFollowsEnableAndDone : Obligations.InterruptFollowsEnableAndDone := by
  intro s v rest hr
  refine ⟨fun ht hv => ⟨_, step_regWrite (r := .ctrl) (by decide) ht hr, ?_⟩,
    fun ht hv => ⟨_, step_regWrite (r := .status) (by decide) ht hr, ?_⟩⟩
  · rw [regWrite, writeCtrl_of_not_srst hv]
    exact ⟨rfl, rfl, rfl, rfl⟩
  · simp [State.irq, regWrite, Regs.writeStatus, hv]

/-- CTRL reads IE in bit 0 and 0 elsewhere (R21). -/
theorem regRead_ctrl_toNat (s : State) : (regRead s .ctrl).toNat = s.regs.ie.toNat := by
  rw [regRead, toNat_zeroExtend_word _ (by decide), BitVec.toNat_ofBool]

/-- IE after a CTRL write (R21): the written bit 0 or, with SRST = 1, the reset value. -/
theorem writeCtrl_ie (v : Word) (s : State) :
    (writeCtrl v s).regs.ie.toNat = if v.toNat / 2 % 2 = 1 then 0 else v.toNat % 2 := by
  have h1 : v.getLsbD 1 = decide (v.toNat / 2 % 2 = 1) := getLsbD_eq_decide v 1
  by_cases h : v.toNat / 2 % 2 = 1
  · rw [writeCtrl_of_srst (h1.trans (decide_eq_true h)), softReset_regs, if_pos h]
    rfl
  · rw [writeCtrl_of_not_srst (h1.trans (decide_eq_false h)), if_neg h]
    exact (Nat.toNat_testBit v.toNat 0).trans (by rw [pow_zero, Nat.div_one])

/-- Settles O53: CTRL reads its one stored bit, after a CTRL write too, and CMD stores none. -/
theorem ctrlAndCmdRead : Obligations.CtrlAndCmdRead := by
  intro s rest hr
  refine ⟨fun ht => ⟨_, _, step_regRead (r := .ctrl) ht hr, rfl, regRead_ctrl_toNat s⟩, fun v ht => ?_,
    fun ht => ⟨_, step_regRead (r := .cmd) ht hr, rfl⟩⟩
  obtain ⟨hwrite, hread⟩ := step_regWrite_regRead (r := .ctrl) (by decide) ht hr
  refine ⟨_, _, _, hwrite, hread, rfl, ?_⟩
  rw [regRead_ctrl_toNat]
  exact writeCtrl_ie v _

/-! ### The parameter registers (R28 to R36) -/

section
variable {s t : State} {r : RegName} {v x : Word} {g : Regs}

/-- A write of a parameter register stores the fields of `storedAs`. -/
theorem regWrite_of_storedAs (h : storedAs v s.regs r = some (g, x)) : regWrite v s r = { s with regs := g } := by
  cases r <;> cases h
  case dim =>
    have hhigh : v.extractLsb' 16 16 = BitVec.ofNat 16 (v.toNat / 65536) :=
      congrArg (BitVec.ofNat 16) (Nat.shiftRight_eq_div_pow _ _)
    rw [regWrite, hhigh]
    rfl
  all_goals rfl

/-- CMD is no parameter register. -/
theorem ne_cmd_of_storedAs (h : storedAs v s.regs r = some (g, x)) : r ≠ .cmd := by
  rintro rfl
  cases h

/-- The register then reads as the word of `storedAs`. -/
theorem regRead_of_storedAs (h : storedAs v s.regs r = some (g, x)) (ht : t.regs = g) : regRead t r = x := by
  cases r <;> cases h <;> simp only [regRead, ht]
  case dim => exact halves_append v
  all_goals exact zeroExtend_low_bits v (by decide) (by decide)

/-- Every other register reads as before. -/
theorem regRead_of_storedAs_other (h : storedAs v s.regs r = some (g, x)) (ht : t.regs = g) (hp : t.params = s.params)
    {q : RegName} (hq : q ≠ r) : regRead t q = regRead s q := by
  cases r <;> cases h
  all_goals cases q <;> simp [regRead, ht, hp, Regs.statusWord, Regs.err] at hq ⊢

/-- What a parameter register reads as is the number of its fields. -/
theorem regRead_of_fieldWord {n : Nat} (h : fieldWord s.regs r = some n) : (regRead s r).toNat = n := by
  cases r <;> cases h
  case dim => exact toNat_append_eq_add _ _
  case wnNoise => rfl
  all_goals exact toNat_zeroExtend_word _ (by decide)

end

/-- Settles O47: one write stores the register's own fields, and a read makes its word of them. -/
theorem parameterRegistersReadBack : Obligations.ParameterRegistersReadBack := by
  refine ⟨fun s r v x g rest h ht hr => ?_, fun s r n rest h ht hr => ?_⟩
  · obtain ⟨hwrite, hread⟩ := step_regWrite_regRead (ne_cmd_of_storedAs h) ht hr
    rw [regWrite_of_storedAs (s := s.answerWrite _) h] at hwrite hread
    rw [regRead_of_storedAs h rfl] at hread
    refine ⟨_, _, hwrite, rfl, hread, rfl, rfl, rfl, fun q hq => ?_, rfl, rfl, rfl⟩
    refine regRead_of_storedAs_other h ?_ ?_ hq
    · rfl
    · rfl
  · exact ⟨_, _, step_regRead ht hr, rfl, regRead_of_fieldWord h⟩

/-! ### Reset (R43) -/

/-- Settles O43: every register's word and field after reset is a constant. -/
theorem resetRegisterValues : Obligations.ResetRegisterValues := by
  intro p
  have hdim : regRead (State.resetWith p) .dim = 0#16 ++ 0#16 := rfl
  have hstatus : regRead (State.resetWith p) .status = Regs.reset.statusWord := rfl
  exact ⟨rfl, rfl, hstatus.trans (by decide), rfl, rfl, rfl, hdim.trans (by decide), rfl, rfl, rfl, rfl, rfl, rfl, rfl,
    rfl, rfl, rfl, fun _ => rfl⟩

end Sys2Proof.Machine
end

section
/-! SUPPORT. The host's accesses of pixel memory (R47, R49, R62): one step of each kind at a legal address, and the bytes
that a read returns. -/

namespace Sys2Proof.Machine

/-! ### Data as bytes (R47, R66) -/

@[simp] theorem datumOfBytes_width (f : Nat → Byte) (w : Width) : (datumOfBytes f w).width = w := by
  cases w <;> rfl

/-- The number of a datum is the little-endian sum of its bytes (R47). -/
theorem datumNat_datumOfBytes (f : Nat → Byte) (w : Width) :
    datumNat (datumOfBytes f w) = (Finset.range w.bytes).sum fun k => (f k).toNat * 2 ^ (8 * k) := by
  cases w
  all_goals
    simp only [datumNat, datumOfBytes, toNat_append_eq_add, Width.bytes, Finset.sum_range_succ, Finset.sum_range_zero]
    omega

/-- Byte `k` of a datum's number (R47). -/
theorem byte_datumOfBytes (f : Nat → Byte) {w : Width} {k : Nat} (hk : k < w.bytes) :
    BitVec.ofNat 8 (datumNat (datumOfBytes f w) / 2 ^ (8 * k)) = f k := by
  refine BitVec.eq_of_toNat_eq ?_
  rw [datumNat_datumOfBytes, BitVec.toNat_ofNat]
  cases w
  all_goals
    simp only [Width.bytes, Finset.sum_range_succ, Finset.sum_range_zero] at hk ⊢
    interval_cases k
    all_goals omega

/-- An access has at least one byte. -/
theorem Width.bytes_pos (w : Width) : 0 < w.bytes := by cases w <;> decide

/-! ### What a read sees (R44, R62) -/

/-- The destination of a command in flight, as offsets (R51). -/
theorem inDestination_iff (s : State) (a : Nat) : inDestination s a = true ↔
    ∃ f, s.inflight = some f ∧ f.dst.base ≤ a ∧ a < f.dst.base + f.dst.size := by
  unfold inDestination
  cases s.inflight with
  | none => simp
  | some f => simp [contains_iff]

/-- A specified byte outside such a destination reads as it is stored. -/
theorem hostByte_eq_stored {s : State} {a : Nat} {b : Byte} (hd : inDestination s a = false)
    (hb : Memory.read s.pmem a = some b) : hostByte s a = b := by
  simp [hostByte, hd, hb]

/-! ### Steps -/

section
variable {s : State} {a : Nat} {rest : List Turn}

/-- A legal host read of pixel memory (R49). -/
theorem step_pmemRead {w : Width} (ht : s.turns = .host (.read (pmemAddr s.params a) w) :: rest)
    (hr : s.resetAsserted = false) (hp : s.params.legal = true) (hal : a % w.bytes = 0)
    (hle : a + w.bytes ≤ s.params.pmemBytes) :
    step s = .next ((s.advanceRead rest).respond (.data (pmemRead a w (s.advanceRead rest)))) := by
  rw [step_host ht, takeTurn_read]
  exact hostAccess_pmemRead (s := s.advanceRead rest) hr hp (by simp [pmemLegal, hal, hle])

/-- A legal host write of pixel memory (R49). -/
theorem step_pmemWrite {d : Datum} (ht : s.turns = .host (.write (pmemAddr s.params a) d) :: rest)
    (hr : s.resetAsserted = false) (hp : s.params.legal = true) (hal : a % d.width.bytes = 0)
    (hle : a + d.width.bytes ≤ s.params.pmemBytes) :
    step s = .next (pmemWrite a d (s.answerWrite rest)) := by
  have hsize := pmemBytes_le hp
  have hw := Width.bytes_pos d.width
  have hoff : (BitVec.ofNat 25 (0x1000000 + a)).toNat = 0x1000000 + a := by
    rw [BitVec.toNat_ofNat, Nat.mod_eq_of_lt (by omega)]
  have htarget : target (s.advance rest).params (0x1000000 + a) = .pmem a := target_pmem (by simp; omega)
  rw [step_write_append ht hr, hoff, busWrite, htarget]
  exact if_pos (by simp [pmemLegal, hal, hle])

end

/-- Settles O57: the read answers what `hostByte` sees. -/
theorem everyLegalReadAnswers : Obligations.EveryLegalReadAnswers := by
  intro s a w rest ht hr hp hal hle
  refine ⟨_, _, step_pmemRead ht hr hp hal hle, rfl, datumOfBytes_width _ _, rfl, rfl, rfl, fun k hk => ?_⟩
  rw [pmemRead, byte_datumOfBytes _ hk]
  cases hb : Memory.read s.pmem (a + k) with
  | none => exact .inl rfl
  | some b =>
    cases hd : inDestination s (a + k) with
    | true => exact .inr (.inl ((inDestination_iff _ _).1 hd))
    | false => exact .inr (.inr (congrArg some (hostByte_eq_stored (s := s.advanceRead rest) hd hb).symm))

/-- Settles O58: while BUSY = 1 the write only sets HAZ. -/
theorem pixelWriteWhileBusyIsDropped : Obligations.PixelWriteWhileBusyIsDropped := by
  intro s a d rest ht hr hp hb hal hle
  rw [step_pmemWrite ht hr hp hal hle, pmemWrite_busy (s.answerWrite rest) a d hb]
  rfl

end Sys2Proof.Machine
end

section
/-! SUPPORT. What one step can do to the state (R37, R57), said once with the platform addresses of the host's writes (R46);
and what that leaves of BUSY, DONE, OVR, HAZ and the inputs of a command in flight. -/

namespace Sys2Proof.Machine

/-! ### Platform addresses (R46) -/

/-- The window of an address is its bits above the offset. -/
theorem inWindow_iff (p : Params) (addr : BitVec 32) :
    inWindow p addr = true ↔ addr.toNat / 2 ^ 25 = p.baseWindow.toNat := by
  have h : (addr.extractLsb' 25 7).toNat = addr.toNat / 2 ^ 25 := by
    rw [BitVec.extractLsb'_toNat, Nat.shiftRight_eq_div_pow, Nat.mod_eq_of_lt]
    have := addr.isLt
    omega
  rw [inWindow, beq_iff_eq, BitVec.toNat_eq, h]

/-- The window offset of an address is its bits below. -/
theorem windowOffset_eq_mod (addr : BitVec 32) : windowOffset addr = addr.toNat % 2 ^ 25 := by
  rw [windowOffset, BitVec.extractLsb'_toNat, Nat.shiftRight_zero]

/-- An address in the window at a register's offset is that register's address. -/
theorem eq_regAddr {p : Params} {addr : BitVec 32} {r : RegName} (hw : inWindow p addr = true)
    (ho : windowOffset addr = regOffset r) : addr = p.baseWindow ++ tabledOffset r := by
  have hoff : (tabledOffset r).toNat = regOffset r := by cases r <;> rfl
  refine BitVec.eq_of_toNat_eq ?_
  rw [toNat_append_eq_add, hoff, ← ho, ← (inWindow_iff p addr).1 hw, windowOffset_eq_mod, Nat.div_add_mod']

/-- The register space holds its offset (R46). -/
theorem eq_of_target_register {p : Params} {off a : Nat} (h : target p off = .register a) : off = a := by
  unfold target at h
  split_ifs at h
  injection h

/-- Pixel memory begins at 0x100_0000 (R46). -/
theorem eq_of_target_pmem {p : Params} {off a : Nat} (h : target p off = .pmem a) : off = 0x1000000 + a := by
  unfold target at h
  split_ifs at h
  rw [Target.pmem.injEq] at h
  omega

/-! ### A host access -/

/-- A host read at a window offset is answered. -/
theorem exists_busRead_eq_respond (off : Nat) (w : Width) (s : State) : ∃ x, busRead off w s = s.respond x := by
  unfold busRead
  split
  · split <;> exact ⟨_, rfl⟩
  · split <;> exact ⟨_, rfl⟩
  · exact ⟨_, rfl⟩

/-- A host read that goes on is answered and does nothing else (R52). -/
theorem hostRead_answered {addr : BitVec 32} {w : Width} {s s' : State}
    (e : hostAccess (.read addr w) s = .next s') : ∃ x, s' = s.respond x := by
  unfold hostAccess at e
  dsimp only at e
  split at e
  · split at e
    · cases e
      exact ⟨_, rfl⟩
    · cases e
      exact exists_busRead_eq_respond _ _ _
  · cases e

/-- Everything a host write at a window offset can do: it is answered only, writes a register other than CMD, issues a
word, or writes pixel memory. -/
theorem busWrite_cases (off : Nat) (d : Datum) (s : State) :
    (∃ x, busWrite off d s = .next (s.respond x)) ∨
    (∃ v r, r ≠ RegName.cmd ∧ off = regOffset r ∧ d = .b32 v ∧
      busWrite off d s = .next (regWrite v (s.respond .done) r)) ∨
    (∃ w, off = regOffset .cmd ∧ d = .b32 w ∧ busWrite off d s = issue w (s.respond .done)) ∨
    (∃ a, off = 0x1000000 + a ∧ a + d.width.bytes ≤ s.params.pmemBytes ∧
      busWrite off d s = .next (pmemWrite a d (s.respond .done))) := by
  unfold busWrite
  split
  · rename_i a ha
    obtain rfl := eq_of_target_register ha
    cases d with
    | b8 v => exact .inl ⟨_, rfl⟩
    | b16 v => exact .inl ⟨_, rfl⟩
    | b32 v =>
      dsimp only
      split
      · unfold registerWrite
        split
        · exact .inl ⟨_, rfl⟩
        · rename_i hreg
          exact .inr (.inr (.inl ⟨v, eq_regOffset_of_regAt hreg, rfl, rfl⟩))
        · rename_i r hr hreg
          exact .inr (.inl ⟨v, r, hr, eq_regOffset_of_regAt hreg, rfl, rfl⟩)
      · exact .inl ⟨_, rfl⟩
  · rename_i a ha
    split
    · rename_i hl
      simp only [pmemLegal, Bool.and_eq_true, decide_eq_true_eq] at hl
      exact .inr (.inr (.inr ⟨a, eq_of_target_pmem ha, hl.2, rfl⟩))
    · exact .inl ⟨_, rfl⟩
  · exact .inl ⟨_, rfl⟩

/-! ### A step -/

/-- Everything one step can make of the state. A turn of the core with nothing in flight, and one under reset, passes; so
does a release of an input that is not asserted. -/
inductive StepEffect (s : State) : State → Prop
  | passed (rest : List Turn) : StepEffect s (s.pass rest)
  | completed (rest : List Turn) (f : Inflight) : s.inflight = some f → StepEffect s (complete (s.pass rest))
  | resetAsserted (rest : List Turn) : StepEffect s { s.advance rest with resetAsserted := true }
  | hardReset (rest : List Turn) : StepEffect s (hardReset (s.pass rest))
  | answered (a : Access) (rest : List Turn) (x : Response) : StepEffect s ((takeTurn a rest s).respond x)
  | softReset (rest : List Turn) : StepEffect s (softReset (s.answerWrite rest))
  | statusWritten (v : Word) (rest : List Turn) :
    s.turns = .host (.write (s.params.baseWindow ++ tabledOffset .status) (.b32 v)) :: rest →
    StepEffect s { s.answerWrite rest with regs := s.regs.writeStatus v }
  | fieldsWritten (g : Regs) (rest : List Turn) :
    g.busy = s.regs.busy → g.done = s.regs.done → g.ovr = s.regs.ovr → g.haz = s.regs.haz →
    StepEffect s { s.answerWrite rest with regs := g }
  | commandLost (w : Word) (rest : List Turn) :
    s.turns = .host (.write (s.params.baseWindow ++ tabledOffset .cmd) (.b32 w)) :: rest → s.regs.busy = true →
    StepEffect s (commandLost (s.answerWrite rest))
  | commandReported (op : BitVec 8) (code : ErrCode) (rest : List Turn) : s.regs.busy = false →
    StepEffect s (errorComplete op code (s.answerWrite rest))
  | commandStarted (f : Inflight) (rest : List Turn) : s.regs.busy = false →
    StepEffect s (startCommand f (s.answerWrite rest))
  | pixelsStored (m : Memory) (rest : List Turn) : s.regs.busy = false →
    StepEffect s { s.answerWrite rest with pmem := m }
  | pixelsDropped (addr : BitVec 32) (d : Datum) (rest : List Turn) :
    s.turns = .host (.write addr d) :: rest → inWindow s.params addr = true → 0x1000000 ≤ windowOffset addr →
    windowOffset addr + d.width.bytes ≤ 0x1000000 + s.params.pmemBytes → s.regs.busy = true →
    StepEffect s { s.answerWrite rest with regs := s.regs.setHaz }

section
variable {s s' : State} {rest : List Turn}

/-- The core's turn completes the command in flight, or passes. -/
theorem coreTurn_effect (s : State) (rest : List Turn) : StepEffect s (coreTurn (s.pass rest)) := by
  unfold coreTurn
  split
  · exact .passed rest
  · cases hf : s.inflight with
    | none =>
      rw [complete_none (s.pass rest) hf]
      exact .passed rest
    | some f => exact .completed rest f hf

/-- A release is a hard reset, or no edge. -/
theorem releaseTurn_effect (s : State) (rest : List Turn) : StepEffect s (releaseTurn (s.pass rest)) := by
  unfold releaseTurn
  split
  · exact .hardReset rest
  · exact .passed rest

/-- A write of a register other than CMD and STATUS stores no STATUS field, unless it is the soft reset. -/
theorem regWrite_effect {r : RegName} {v : Word} (hr : r ≠ .cmd)
    (ht : s.turns = .host (.write (s.params.baseWindow ++ tabledOffset r) (.b32 v)) :: rest) :
    StepEffect s (regWrite v (s.answerWrite rest) r) := by
  cases r with
  | status => exact .statusWritten v rest ht
  | ctrl =>
    cases hv : v.getLsbD 1
    · rw [regWrite, writeCtrl_of_not_srst hv]
      exact .fieldsWritten _ rest rfl rfl rfl rfl
    · rw [regWrite, writeCtrl_of_srst hv]
      exact .softReset rest
  | cmd => exact absurd rfl hr
  | _ => exact .fieldsWritten _ rest rfl rfl rfl rfl

/-- A CMD write is lost while BUSY, and else reports or starts. -/
theorem issue_effect {w : Word}
    (ht : s.turns = .host (.write (s.params.baseWindow ++ tabledOffset .cmd) (.b32 w)) :: rest)
    (e : issue w (s.answerWrite rest) = .next s') : StepEffect s s' := by
  rcases issue_cases w (s.answerWrite rest) with ⟨hb, he⟩ | ⟨hb, op, code, he⟩ | ⟨hb, op, -, he⟩
  · cases he.symm.trans e
    exact .commandLost w rest ht hb
  · cases he.symm.trans e
    exact .commandReported op code rest hb
  · cases he.symm.trans e
    exact .commandStarted _ rest hb

/-- A host write that goes on has one of the effects. -/
theorem hostWrite_effect {addr : BitVec 32} {d : Datum} (ht : s.turns = .host (.write addr d) :: rest)
    (e : hostAccess (.write addr d) (s.advance rest) = .next s') : StepEffect s s' := by
  unfold hostAccess at e
  dsimp only at e
  split at e
  · rename_i hw
    split at e
    · cases e
      exact .answered (.write addr d) rest _
    · rcases busWrite_cases (windowOffset addr) d (s.advance rest) with
        ⟨x, he⟩ | ⟨v, r, hr, ho, rfl, he⟩ | ⟨w, ho, rfl, he⟩ | ⟨a, ho, hle, he⟩
      · cases he.symm.trans e
        exact .answered (.write addr d) rest x
      · cases he.symm.trans e
        rw [eq_regAddr hw ho] at ht
        exact regWrite_effect hr ht
      · rw [eq_regAddr hw ho] at ht
        exact issue_effect ht (he.symm.trans e)
      · cases he.symm.trans e
        change StepEffect s (pmemWrite a d (s.answerWrite rest))
        cases hb : s.regs.busy
        · rw [pmemWrite_idle (s.answerWrite rest) a d hb]
          exact .pixelsStored _ rest hb
        · rw [pmemWrite_busy (s.answerWrite rest) a d hb]
          exact .pixelsDropped addr d rest ht hw (by omega) (by simp only [State.advance_params] at hle; omega) hb
  · cases e

/-- A step has one of these effects. -/
theorem step_effect (e : step s = .next s') : StepEffect s s' := by
  cases ht : s.turns with
  | nil =>
    have hpass : s.pass [] = s := by rw [State.pass, ← ht]
    have heff := coreTurn_effect s []
    rw [hpass] at heff
    cases (step_idle ht).symm.trans e
    exact heff
  | cons t rest =>
    cases t with
    | host a =>
      rw [step_host ht] at e
      cases a with
      | read addr w =>
        obtain ⟨x, rfl⟩ := hostRead_answered e
        exact .answered _ rest x
      | write addr d => exact hostWrite_effect ht e
    | core =>
      cases (step_core ht).symm.trans e
      exact coreTurn_effect s rest
    | assertReset =>
      cases (step_assertReset ht).symm.trans e
      exact .resetAsserted rest
    | releaseReset =>
      cases (step_releaseReset ht).symm.trans e
      exact releaseTurn_effect s rest

/-- With a command in flight a step leaves the record and the pixel memory as they are, or ends the command: by its
completion (R91) or by a reset (R145, R146). -/
theorem StepEffect.inFlight {f : Inflight} (e : StepEffect s s') (hf : s.inflight = some f) (hb : s.regs.busy = true) :
    (s'.inflight = some f ∧ s'.pmem = s.pmem ∧ s'.regs.busy = true) ∨
    (s'.inflight = none ∧ (s'.regs = s.regs.finish f.op.opcode ∨ s'.regs = Regs.reset)) := by
  cases e with
  | completed rest f' hf' =>
    cases hf.symm.trans hf'
    rw [complete_some (s.pass rest) f hf]
    exact .inr ⟨rfl, .inl rfl⟩
  | hardReset => exact .inr ⟨rfl, .inr rfl⟩
  | softReset => exact .inr ⟨by simp, .inr (by simp)⟩
  | commandReported _ _ _ hidle | commandStarted _ _ hidle | pixelsStored _ _ hidle => simp [hb] at hidle
  | answered a rest x => exact .inl ⟨by simpa using hf, by simp, by simpa using hb⟩
  | fieldsWritten g _ hgb => exact .inl ⟨hf, rfl, hgb.trans hb⟩
  | passed | resetAsserted | statusWritten | commandLost | pixelsDropped => exact .inl ⟨hf, rfl, hb⟩

end

/-- BUSY is 1 while a command is in flight (R23). -/
theorem State.Inv.busy_of_inflight {s : State} {f : Inflight} (h : s.Inv) (hf : s.inflight = some f) :
    s.regs.busy = true := by
  rw [h.busy, hf]
  rfl

/-- Settles O38: a step that does not end the command leaves its record and the memory. -/
theorem inputsFixedWhileInFlight : Obligations.InputsFixedWhileInFlight := by
  intro s s' f f' hs hf e hf'
  rcases (step_effect e).inFlight hf (hs.busy_of_inflight hf) with ⟨hsame, hm, -⟩ | ⟨hnone, -⟩
  · exact ⟨Option.some.inj (hf'.symm.trans hsame), hm⟩
  · cases hf'.symm.trans hnone

/-- Settles O39: a step that leaves BUSY clear has ended the command. -/
theorem busyFallsOnlyByCompletionOrReset : Obligations.BusyFallsOnlyByCompletionOrReset := by
  intro s s' f hs hf e hidle
  rcases (step_effect e).inFlight hf (hs.busy_of_inflight hf) with ⟨-, -, hbusy⟩ | hended
  · cases hidle.symm.trans hbusy
  · exact hended

/-- Settles O40: only a reset and the W1C write of STATUS clear DONE. -/
theorem doneFallsOnlyByAcknowledgeOrReset : Obligations.DoneFallsOnlyByAcknowledgeOrReset := by
  intro s s' e hd hd'
  cases step_effect e with
  | hardReset => exact .inl rfl
  | softReset => exact .inl (softReset_regs _)
  | statusWritten v rest ht =>
    refine .inr ⟨v, rest, ht, ?_⟩
    simpa [Regs.writeStatus, hd] using hd'
  | completed rest f hf => simp [complete_some (s.pass rest) f hf] at hd'
  | fieldsWritten g _ _ hgd => simp [hgd, hd] at hd'
  | _ => simp [hd] at hd'

/-- Settles O41: only a lost command sets OVR, and only a dropped write of pixel memory sets HAZ. -/
theorem hazardsRecordOnlyEarlyAccesses : Obligations.HazardsRecordOnlyEarlyAccesses := by
  intro s s' e
  cases step_effect e with
  | commandLost w rest ht hb =>
    refine ⟨fun _ _ => ⟨hb, w, rest, ht⟩, fun h h' => ?_⟩
    simp [h] at h'
  | pixelsDropped addr d rest ht hw hlo hhi hb =>
    refine ⟨fun h h' => ?_, fun _ _ => ⟨hb, addr, d, rest, ht, (inWindow_iff _ _).1 hw, ?_, ?_⟩⟩
    · simp [h] at h'
    · rwa [← windowOffset_eq_mod]
    · rwa [← windowOffset_eq_mod]
  | statusWritten v => constructor <;> simp +contextual [Regs.writeStatus]
  | fieldsWritten g _ _ _ ho hz => simp +contextual [ho, hz]
  | completed rest f hf => simp +contextual [complete_some (s.pass rest) f hf]
  | hardReset | softReset => simp [Regs.reset]
  | _ => simp +contextual

end Sys2Proof.Machine
end

section
/-! SUPPORT. A command over an unspecified source byte (R44, U4): it runs as any other, and its whole destination is
unspecified. -/

namespace Sys2Proof.Machine

/-- A block with an unspecified byte cannot be read. -/
theorem Memory.readBytes_eq_none {m : Memory} {a n x : Nat} (hlo : a ≤ x) (hhi : x < a + n)
    (hx : Memory.read m x = none) : Memory.readBytes m a n = none := by
  cases hbs : Memory.readBytes m a n with
  | none => rfl
  | some bs =>
    obtain ⟨hlen, hread⟩ := (Memory.readBytes_eq_some m a n bs).1 hbs
    have hk := hread (x - a) (by omega)
    rw [Nat.add_sub_cancel' hlo, hx, eq_comm, List.getElem?_eq_none_iff] at hk
    omega

/-- So a source extent with one has no image (R44). -/
theorem sourceImage_eq_none {m : Memory} {f : Inflight} {x : Nat} (hlo : f.src.base ≤ x)
    (hhi : x < f.src.base + f.src.size) (hx : Memory.read m x = none) : sourceImage m f = none := by
  rw [sourceImage, Memory.readBytes_eq_none hlo hhi hx]

/-- The destination of an accepted command's record, by the registers (R51). -/
theorem snapshot_dst_contains_iff {op : ImageOp} {s : State} (h : channelsAccepted op s) (a : Nat) :
    (snapshot op s.regs).dst.contains a = true ↔
      s.regs.dstBase.toNat ≤ a ∧ a < s.regs.dstBase.toNat + imageSize s := by
  rw [contains_iff, snapshot_dst_size h]
  rfl

/-- Settles O17: the source has no image, and the completion then forgets the destination and nothing else. -/
theorem unspecifiedSourceMakesDestinationUnspecified : Obligations.UnspecifiedSourceMakesDestinationUnspecified := by
  intro op s rest a hr h hlo hhi ha
  have hnone : sourceImage s.pmem (snapshot op s.regs) = none := sourceImage_eq_none hlo hhi ha
  refine ⟨h.exec_eq, _, step_issued h.accepted hr rest, ⟨rfl, rfl, rfl, rfl, rfl, rfl, fun b hb => ?_⟩,
    fun b hblo hbhi => ?_⟩
  · rw [← snapshot_dst_contains_iff h.accepted, Bool.not_eq_true] at hb
    exact read_storeResult_outside (recordOk_snapshot h.checkImage_ok) hb
  · exact read_storeResult_unspecified hnone ((snapshot_dst_contains_iff h.accepted b).2 ⟨hblo, hbhi⟩)

end Sys2Proof.Machine
end

section
/-! SUPPORT. The window and the bus errors (R46, R48, R49, R136): which accesses stop the machine, and what an illegal access
inside the window does. -/

namespace Sys2Proof

/-- The platform address of an access (R45). -/
def Access.addr : Access → BitVec 32
  | .read addr _ => addr
  | .write addr _ => addr

end Sys2Proof

namespace Sys2Proof.Machine

/-! ### The window (R46) -/

/-- An issue of any word goes on (R70, R83). -/
theorem exists_issue_eq_next (w : Word) (s : State) : ∃ s', issue w s = .next s' := by
  rcases issue_cases w s with ⟨-, e⟩ | ⟨-, _, _, e⟩ | ⟨-, _, -, e⟩ <;> exact ⟨_, e⟩

/-- A host write at any window offset goes on. -/
theorem exists_busWrite_eq_next (off : Nat) (d : Datum) (s : State) : ∃ s', busWrite off d s = .next s' := by
  rcases busWrite_cases off d s with ⟨_, e⟩ | ⟨_, _, -, -, -, e⟩ | ⟨w, -, -, e⟩ | ⟨_, -, -, e⟩
  · exact ⟨_, e⟩
  · exact ⟨_, e⟩
  · rw [e]
    exact exists_issue_eq_next w _
  · exact ⟨_, e⟩

/-- An access outside the window stops the machine (log entry 7). -/
theorem hostAccess_outside {a : Access} {s : State} (h : inWindow s.params a.addr = false) :
    hostAccess a s = .fault .outsideWindow := by
  cases a <;> exact if_neg (Bool.eq_false_iff.1 h)

/-- A host read in the window is the bus's. -/
theorem hostAccess_read {addr : BitVec 32} {w : Width} {s : State} (h : inWindow s.params addr = true)
    (hr : s.resetAsserted = false) : hostAccess (.read addr w) s = .next (busRead (windowOffset addr) w s) := by
  simp [hostAccess, h, hr]

/-- A host write in the window is the bus's. -/
theorem hostAccess_write {addr : BitVec 32} {d : Datum} {s : State} (h : inWindow s.params addr = true)
    (hr : s.resetAsserted = false) : hostAccess (.write addr d) s = busWrite (windowOffset addr) d s := by
  simp [hostAccess, h, hr]

/-- While reset is asserted, an access in the window is answered and ignored (R145). -/
theorem hostAccess_inReset {a : Access} {s : State} (h : inWindow s.params a.addr = true)
    (hr : s.resetAsserted = true) : hostAccess a s = .next (accessInReset a s) := by
  cases a <;> exact (if_pos h).trans (if_pos hr)

/-- An access in the window goes on. -/
theorem exists_hostAccess_eq_next {a : Access} {s : State} (h : inWindow s.params a.addr = true) :
    ∃ s', hostAccess a s = .next s' := by
  cases hr : s.resetAsserted with
  | true => exact ⟨_, hostAccess_inReset h hr⟩
  | false =>
    cases a with
    | read addr w => exact ⟨_, hostAccess_read h hr⟩
    | write addr d =>
      rw [hostAccess_write (addr := addr) h hr]
      exact exists_busWrite_eq_next _ d s

/-- Settles O36: a host access stops outside the window only, and every other turn goes on. -/
theorem onlyAnAddressOutsideTheWindowStops : Obligations.OnlyAnAddressOutsideTheWindowStops := by
  intro s
  cases ht : s.turns with
  | nil => exact .inl ⟨_, step_idle ht⟩
  | cons t rest =>
    cases t with
    | core => exact .inl ⟨_, step_core ht⟩
    | assertReset => exact .inl ⟨_, step_assertReset ht⟩
    | releaseReset => exact .inl ⟨_, step_releaseReset ht⟩
    | host a =>
      rw [step_host ht]
      cases hw : inWindow s.params a.addr with
      | true => exact .inl (exists_hostAccess_eq_next (by simpa using hw))
      | false =>
        refine .inr ⟨hostAccess_outside (by simpa using hw), a, rest, rfl, ?_⟩
        have hne : a.addr.toNat / 2 ^ 25 ≠ s.params.baseWindow.toNat :=
          mt (inWindow_iff _ _).2 (Bool.eq_false_iff.1 hw)
        cases a <;> exact hne

/-! ### Bus errors (R136) -/

/-- Where a bus error lands (R46): in the register space, not 32 bits wide or misaligned (R48); in a reserved range; or in
pixel memory, misaligned or past the end (R49). -/
theorem target_of_isBusError {p : Params} {off n : Nat} (h : isBusError p off n) :
    (target p off = .register off ∧ (n ≠ 4 ∨ off % 4 ≠ 0)) ∨ target p off = .reserved ∨
      ∃ a, target p off = .pmem a ∧ pmemLegal p a n = false := by
  unfold target
  rcases h with ⟨hlt, hbad⟩ | ⟨hlo, hhi⟩ | ⟨hlo, hbad⟩
  · exact .inl ⟨if_pos hlt, hbad⟩
  · exact .inr (.inl (by rw [if_neg (by omega), if_neg (by omega)]))
  · rw [if_neg (by omega)]
    by_cases hin : off < 0x1000000 + p.pmemBytes
    · refine .inr (.inr ⟨_, if_pos ⟨hlo, hin⟩, ?_⟩)
      rw [pmemLegal, Bool.and_eq_false_iff, beq_eq_false_iff_ne, decide_eq_false_iff_not]
      omega
    · exact .inr (.inl (if_neg (by omega)))

/-- Only a 32-bit access is four bytes wide (R69). -/
theorem Width.bytes_eq_four {w : Width} : w.bytes = 4 ↔ w = .w32 := by cases w <;> decide

/-- A read that is a bus error gets the error response only. -/
theorem busRead_of_isBusError {s : State} {off : Nat} {w : Width} (h : isBusError s.params off w.bytes) :
    busRead off w s = busError s := by
  rcases target_of_isBusError h with ⟨ht, hbad⟩ | ht | ⟨a, ht, hbad⟩
  · rw [busRead, ht]
    refine if_neg fun hlegal => ?_
    simp [hlegal.2, Width.bytes_eq_four, hlegal.1] at hbad
  · rw [busRead, ht]
  · simp [busRead, ht, hbad]

/-- A write that is a bus error gets the error response only. -/
theorem busWrite_of_isBusError {s : State} {off : Nat} {d : Datum} (h : isBusError s.params off d.width.bytes) :
    busWrite off d s = .next (busError s) := by
  rcases target_of_isBusError h with ⟨ht, hbad⟩ | ht | ⟨a, ht, hbad⟩
  · rw [busWrite, ht]
    cases d with
    | b8 v => rfl
    | b16 v => rfl
    | b32 v => exact if_neg fun hal => hbad.elim (fun hn => hn rfl) (fun hne => hne hal)
  · rw [busWrite, ht]
  · simp [busWrite, ht, hbad]

/-- Settles O54: the access is answered with the error response, and nothing else is done. -/
theorem busErrorChangesNothing : Obligations.BusErrorChangesNothing := by
  intro s off a rest ht hr herr
  have hstep : step s = .next (busError (takeTurn a rest s)) := by
    cases a with
    | read addr w =>
      obtain ⟨rfl, hbad⟩ := herr
      rw [step_read_append ht hr]
      exact congrArg _ (busRead_of_isBusError hbad)
    | write addr d =>
      obtain ⟨rfl, hbad⟩ := herr
      rw [step_write_append ht hr]
      exact busWrite_of_isBusError hbad
  exact ⟨_, hstep, rfl, by simp, by simp, by simp, by simp, by simp, by simpa using hr⟩

end Sys2Proof.Machine
end

section
/-! SUPPORT. What a legal access of pixel memory stores and returns, byte by byte (R47). -/

namespace Sys2Proof.Machine

/-- Byte `k` of a datum is digit `k` of its number to base 256 (R47). -/
theorem datumBytes_getElem? (d : Datum) {k : Nat} (hk : k < d.width.bytes) :
    (datumBytes d)[k]? = some (BitVec.ofNat 8 (datumNat d / 2 ^ (8 * k))) := by
  have hbyte : ∀ {n : Nat} (v : BitVec n) (i : Nat), v.extractLsb' i 8 = BitVec.ofNat 8 (v.toNat / 2 ^ i) :=
    fun v i => congrArg (BitVec.ofNat 8) (Nat.shiftRight_eq_div_pow v.toNat i)
  cases d
  all_goals
    simp only [Datum.width, Width.bytes] at hk
    interval_cases k
    all_goals simp [datumBytes, datumNat, hbyte]

/-- Data of the same bytes are the same. -/
theorem datumOfBytes_congr {f g : Nat → Byte} {w : Width} (h : ∀ k, k < w.bytes → f k = g k) :
    datumOfBytes f w = datumOfBytes g w := by
  cases w with
  | w8 => simp only [datumOfBytes, h 0 (by decide)]
  | w16 => simp only [datumOfBytes, h 0 (by decide), h 1 (by decide)]
  | w32 => simp only [datumOfBytes, h 0 (by decide), h 1 (by decide), h 2 (by decide), h 3 (by decide)]

/-- Settles O55: the write stores the datum's bytes as a block. -/
theorem pixelWriteStoresLittleEndian : Obligations.PixelWriteStoresLittleEndian := by
  intro s a d rest ht hr hp hidle hal hle
  refine ⟨_, step_pmemWrite ht hr hp hal hle, ?_⟩
  rw [pmemWrite_idle (s.answerWrite rest) a d hidle]
  refine ⟨rfl, rfl, rfl, fun x => ?_⟩
  rw [Memory.read_writeBytes, datumBytes_length]
  split
  · rw [datumBytes_getElem? d (by omega)]
  · rfl

/-- An offset outside the destination of every command in flight (R51). -/
theorem inDestination_eq_false {s : State} {a : Nat}
    (h : ∀ f, s.inflight = some f → ¬ (f.dst.base ≤ a ∧ a < f.dst.base + f.dst.size)) : inDestination s a = false := by
  rw [Bool.eq_false_iff, Ne, inDestination_iff]
  rintro ⟨f, hf, hin⟩
  exact h f hf hin

/-- Settles O56: each byte the read sees is the stored one, and the datum's number is their sum. -/
theorem pixelReadReturnsStoredBytes : Obligations.PixelReadReturnsStoredBytes := by
  intro s a w b rest ht hr hp hal hle hb hdst
  refine ⟨_, _, step_pmemRead ht hr hp hal hle, rfl, datumOfBytes_width _ _, ?_, rfl, rfl, rfl⟩
  rw [pmemRead, datumNat_datumOfBytes]
  refine Finset.sum_congr rfl fun k hk => ?_
  have hlt : k < w.bytes := Finset.mem_range.1 hk
  have hout : inDestination s (a + k) = false := inDestination_eq_false fun f hf => hdst f hf k hlt
  rw [hostByte_eq_stored (s := s.advanceRead rest) hout (hb k hlt)]

end Sys2Proof.Machine
end

section
/-! SUPPORT. Repeated reads (R52): what reads and idle core turns leave as it is, and that the value of a read depends on
nothing else. -/

namespace Sys2Proof.Machine

/-- `t` is a state that `s` comes to while nothing but reads happens: everything but the turns, the latest response and the
count of reads is as it was. -/
structure Undisturbed (s t : State) : Prop where
  params : t.params = s.params
  regs : t.regs = s.regs
  pmem : t.pmem = s.pmem
  inflight : t.inflight = s.inflight
  reset : t.resetAsserted = s.resetAsserted
  epoch : t.epoch = s.epoch

section
variable {s t : State}

theorem Undisturbed.refl (s : State) : Undisturbed s s := ⟨rfl, rfl, rfl, rfl, rfl, rfl⟩

/-- The answer to a read, whatever it is, disturbs nothing. -/
theorem Undisturbed.busRead (h : Undisturbed s t) (off : Nat) (w : Width) (rest : List Turn) :
    Undisturbed s (busRead off w (t.advanceRead rest)) ∧ (Machine.busRead off w (t.advanceRead rest)).turns = rest := by
  obtain ⟨x, hx⟩ := exists_busRead_eq_respond off w (t.advanceRead rest)
  rw [hx]
  exact ⟨⟨h.params, h.regs, h.pmem, h.inflight, h.reset, h.epoch⟩, rfl⟩

/-- A register read is a function of the registers and the parameters (R18). -/
theorem Undisturbed.registerRead (h : Undisturbed s t) (off : Nat) : registerRead off t = registerRead off s := by
  unfold Machine.registerRead
  split
  · rfl
  · rename_i r _
    cases r <;> simp only [regRead, h.params, h.regs]

/-- A read of pixel memory outside the destination of a command in flight is a function of the memory and the epoch. -/
theorem Undisturbed.pmemRead (h : Undisturbed s t) {a : Nat} {w : Width}
    (hout : ∀ k, k < w.bytes → inDestination s (a + k) = false) : pmemRead a w t = pmemRead a w s :=
  datumOfBytes_congr fun k hk => hostByte_stable h.inflight h.pmem h.epoch (hout k hk)

/-- So a read at a window offset returns the same in both (R52), bus errors too. -/
theorem Undisturbed.busRead_resp (h : Undisturbed s t) {off : Nat} {w : Width}
    (hout : ∀ a, off = 0x1000000 + a → ∀ k, k < w.bytes → inDestination s (a + k) = false) :
    (Machine.busRead off w t).resp = (Machine.busRead off w s).resp := by
  unfold Machine.busRead
  rw [h.params]
  split
  · rename_i a _
    rw [h.registerRead a]
    split <;> rfl
  · rename_i a ha
    rw [h.pmemRead (hout a (eq_of_target_pmem ha))]
    split <;> rfl
  · rfl

/-- A host read in the window, by its own address (R46). -/
theorem step_read_inWindow {addr : BitVec 32} {w : Width} {rest : List Turn}
    (ht : s.turns = .host (.read addr w) :: rest) (hw : inWindow s.params addr = true) (hr : s.resetAsserted = false) :
    step s = .next (busRead (windowOffset addr) w (s.advanceRead rest)) :=
  (step_host ht).trans (hostAccess_read (s := s.advanceRead rest) hw hr)

/-- A host read that goes on is in the window. -/
theorem inWindow_of_step_read {addr : BitVec 32} {w : Width} {rest : List Turn}
    (ht : s.turns = .host (.read addr w) :: rest) (e : step s = .next t) : inWindow s.params addr = true := by
  by_contra hw
  rw [step_host ht, takeTurn_read,
    hostAccess_outside (a := .read addr w) (s := s.advanceRead rest) (Bool.eq_false_iff.2 hw)] at e
  cases e

/-- A quiet turn disturbs nothing. -/
theorem Undisturbed.step_quiet (h : Undisturbed s t) (hr : s.resetAsserted = false) {q : Turn} {rest : List Turn}
    (ht : t.turns = q :: rest) (hq : q.quiet s) :
    ∃ t', step t = .next t' ∧ Undisturbed s t' ∧ t'.turns = rest := by
  match q, hq with
  | .core, hidle =>
    have hstay : coreTurn (t.pass rest) = t.pass rest := by
      rw [coreTurn, complete_none (t.pass rest) (h.inflight.trans hidle), ite_self]
    rw [step_core ht, hstay]
    exact ⟨_, rfl, ⟨h.params, h.regs, h.pmem, h.inflight, h.reset, h.epoch⟩, rfl⟩
  | .host (.read addr w), hin =>
    have hw : inWindow t.params addr = true := by rwa [h.params, inWindow_iff]
    exact ⟨_, step_read_inWindow ht hw (h.reset.trans hr), h.busRead _ w rest⟩

/-- A run begins with its first step (Host/Core.lean). -/
theorem run_succ {M : Host.Core} {s t : M.State} (n : Nat) (e : M.step s = .next t) :
    M.run (n + 1) s = M.run n t := by
  rw [Host.Core.run, e]

/-- A run through quiet turns disturbs nothing. -/
theorem Undisturbed.run_quiet (hr : s.resetAsserted = false) (n : Nat) {mid tail : List Turn}
    (hq : ∀ q ∈ mid, q.quiet s) (h : Undisturbed s t) (ht : t.turns = mid ++ tail) :
    ∃ t', core.run (mid.length + n) t = core.run n t' ∧ Undisturbed s t' ∧ t'.turns = tail := by
  induction mid generalizing t with
  | nil => exact ⟨t, by simp, h, ht⟩
  | cons q mid ih =>
    obtain ⟨t₁, e, h₁, ht₁⟩ := h.step_quiet hr ht (hq q (by simp))
    obtain ⟨t', e', h', ht'⟩ := ih (fun q' hm => hq q' (by simp [hm])) h₁ ht₁
    refine ⟨t', ?_, h', ht'⟩
    rw [List.length_cons, Nat.add_right_comm]
    exact (run_succ (M := core) _ e).trans e'

end

/-- Settles O59: quiet turns disturb nothing, and a read is a function of what they leave as it is. -/
theorem readsHaveNoSideEffect : Obligations.ReadsHaveNoSideEffect := by
  intro s addr w rest u ht hr e
  have hw := inWindow_of_step_read ht e
  cases (step_read_inWindow ht hw hr).symm.trans e
  obtain ⟨hu, hturns⟩ := (Undisturbed.refl s).busRead (windowOffset addr) w rest
  refine ⟨hu.regs, hu.pmem, hu.inflight, hu.params, hu.reset.trans hr, hturns, fun mid rest' hrest hq hdst => ?_⟩
  obtain ⟨t, hrun, ht', htturns⟩ := hu.run_quiet hr 1 hq (hturns.trans hrest)
  have hstep := step_read_inWindow htturns (by rwa [ht'.params]) (ht'.reset.trans hr)
  refine ⟨_, hrun.trans (run_succ (M := core) 0 hstep), ?_⟩
  have hafter : Undisturbed (s.advanceRead rest) (t.advanceRead rest') :=
    ⟨ht'.params, ht'.regs, ht'.pmem, ht'.inflight, ht'.reset, ht'.epoch⟩
  refine hafter.busRead_resp fun a ha k hk => inDestination_eq_false fun f hf hin => ?_
  rw [windowOffset_eq_mod] at ha
  exact hdst f hf k hk (by omega)

end Sys2Proof.Machine
end

section
/-! SUPPORT. What a completion's destination bytes depend on (R61, R98). -/

namespace Sys2Proof.Machine

/-- The source image is a function of the source extent's bytes (R54). -/
theorem sourceImage_congr {m m' : Memory} {f : Inflight}
    (h : ∀ a, f.src.base ≤ a → a < f.src.base + f.src.size → Memory.read m a = Memory.read m' a) :
    sourceImage m f = sourceImage m' f := by
  rw [sourceImage, sourceImage, Memory.readBytes_congr h]

/-- The destination bytes of a completion are a function of the parameters, the record and the source image (R91). -/
theorem read_storeResult_congr {p : Params} {f : Inflight} {m m' : Memory} (hf : recordOk p f)
    (h : sourceImage m f = sourceImage m' f) {b : Nat} (hb : f.dst.contains b = true) :
    Memory.read (storeResult p f m) b = Memory.read (storeResult p f m') b := by
  cases hi : sourceImage m f with
  | none => rw [read_storeResult_unspecified hi hb, read_storeResult_unspecified (h.symm.trans hi) hb]
  | some i =>
    obtain ⟨hlo, hhi⟩ := (contains_iff _ _).1 hb
    obtain ⟨k, rfl⟩ := Nat.exists_eq_add_of_le hlo
    have hk : k < (resultPixels p f i).length := by
      rw [resultPixels_length hf hi]
      omega
    have hv := List.getElem?_eq_getElem hk
    rw [read_storeResult_inside hi hv, read_storeResult_inside (h.symm.trans hi) hv]

section
variable {s : State} {f : Inflight}

/-- The core's turn on a command in flight stores its result (R91). -/
theorem coreTurn_pmem (hr : s.resetAsserted = false) (hf : s.inflight = some f) :
    (coreTurn s).pmem = storeResult s.params f s.pmem := by
  simp [coreTurn, hr, complete_some s f hf]

/-- So does the step when the core moves (R90). -/
theorem exists_step_completes (h : coreMoves s) (hr : s.resetAsserted = false) (hf : s.inflight = some f) :
    ∃ s', step s = .next s' ∧ s'.pmem = storeResult s.params f s.pmem := by
  rcases h with ht | ⟨rest, ht⟩
  · exact ⟨_, step_idle ht, coreTurn_pmem hr hf⟩
  · exact ⟨_, step_core ht, coreTurn_pmem (s := s.pass rest) hr hf⟩

end

/-- Settles O18: equal source bytes give one source image, and the result is a function of it. -/
theorem resultDependsOnSourceAndSnapshotOnly : Obligations.ResultDependsOnSourceAndSnapshotOnly := by
  intro s t f hs _ hparams hfs hft hms hmt hrs hrt hsrc
  obtain ⟨s', es, hs'⟩ := exists_step_completes hms hrs hfs
  obtain ⟨t', et, ht'⟩ := exists_step_completes hmt hrt hft
  refine ⟨s', t', es, et, fun b hlo hhi => ?_⟩
  rw [hs', ht', ← hparams]
  exact read_storeResult_congr (hs.record f hfs) (sourceImage_congr hsrc) ((contains_iff _ _).2 ⟨hlo, hhi⟩)

end Sys2Proof.Machine
end

section
/-! SUPPORT. The command word by its number (R68, R75 to R77): the decoder as arithmetic on the two fields, and the issue
of a word that is no command. -/

namespace Sys2Proof.Machine

/-! ### The fields and the opcode map -/

/-- OP is the word's low byte (R68). -/
theorem opField_eq_ofNat (w : Word) : opField w = BitVec.ofNat 8 (w.toNat % 256) := by
  refine BitVec.eq_of_toNat_eq ?_
  rw [opField, BitVec.extractLsb'_toNat, BitVec.toNat_ofNat, Nat.shiftRight_zero, Nat.mod_mod]

/-- RSV is 0 exactly when nothing stands above the low byte (R68). -/
theorem rsvField_eq_zero_iff (w : Word) : rsvField w = 0#24 ↔ w.toNat / 256 = 0 := by
  have hfit : w.toNat / 256 < 2 ^ 24 := by omega
  rw [BitVec.toNat_eq, rsvField, BitVec.extractLsb'_toNat, Nat.shiftRight_eq_div_pow, Nat.mod_eq_of_lt hfit]
  rfl

/-- The decoder as arithmetic (R70): RSV first, then the opcode map. -/
theorem decode_eq_ite (w : Word) :
    decode w = if w.toNat / 256 = 0 then decodeOp (w.toNat % 256) else .illegal .reservedBits := by
  have hop : (opField w).toNat = w.toNat % 256 := by rw [opField_eq_ofNat, BitVec.toNat_ofNat, Nat.mod_mod]
  rw [decode, hop, ite_not]
  exact if_congr (rsvField_eq_zero_iff w) rfl rfl

/-- The opcode map gives each command at its own opcode only (R75). -/
theorem decodeOp_eq_command_iff (n : Nat) (i : Instr) : decodeOp n = .command i ↔ n = i.opcode.toNat := by
  constructor
  · intro h
    unfold decodeOp at h
    split at h <;> cases h <;> rfl
  · rintro rfl
    cases i <;> rfl

/-- Every opcode from 7 on is reserved, and no other (R76). -/
theorem decodeOp_eq_reservedOpcode_iff (n : Nat) : decodeOp n = .illegal .reservedOpcode ↔ 7 ≤ n := by
  constructor
  · intro h
    by_contra hge
    have hlt : n < 7 := Nat.lt_of_not_le hge
    interval_cases n <;> cases h
  · intro h
    obtain ⟨k, rfl⟩ := Nat.exists_eq_add_of_le' h
    rfl

/-- The opcode map says nothing of the reserved bits (R77). -/
theorem decodeOp_ne_reservedBits (n : Nat) : decodeOp n ≠ .illegal .reservedBits := by
  unfold decodeOp
  split <;> simp

/-! ### Decode and encode -/

/-- A command's word is its opcode (R75: "w = zext_32(OP)"). -/
theorem toNat_encode (i : Instr) : (encode i).toNat = i.opcode.toNat := toNat_zeroExtend_word _ (by decide)

/-- Settles O2: a word is a command's when its reserved bits are 0 and its low byte is the opcode, which is to say that the
word's number is the opcode. -/
theorem decodeInvertsEncodeOnEveryWord : Obligations.DecodeInvertsEncodeOnEveryWord := by
  intro w i
  have hop : i.opcode.toNat < 256 := i.opcode.isLt
  rw [decode_eq_ite, BitVec.toNat_eq, toNat_encode]
  by_cases hrsv : w.toNat / 256 = 0
  · rw [if_pos hrsv, decodeOp_eq_command_iff]
    omega
  · rw [if_neg hrsv]
    exact ⟨nofun, fun h => absurd h (by omega)⟩

/-- Settles O3: the reserved bits are looked at first, and only then the opcode. -/
theorem reservedWordsRejectedByName : Obligations.ReservedWordsRejectedByName := by
  intro w
  rw [decode_eq_ite]
  by_cases hrsv : w.toNat / 256 = 0
  · simp [hrsv, decodeOp_ne_reservedBits, decodeOp_eq_reservedOpcode_iff]
  · simp [hrsv]

/-! ### The issue -/

/-- A word with a reserved bit or a reserved opcode is no command (R76, R77). -/
theorem exists_decode_eq_illegal {w : Word} (h : w.toNat / 256 ≠ 0 ∨ 7 ≤ w.toNat % 256) :
    ∃ why, decode w = .illegal why := by
  obtain ⟨hbits, hopcode⟩ := reservedWordsRejectedByName w
  by_cases hrsv : w.toNat / 256 = 0
  · exact ⟨_, hopcode.2 ⟨hrsv, h.resolve_left (not_not_intro hrsv)⟩⟩
  · exact ⟨_, hbits.2 hrsv⟩

/-- With BUSY = 0 the issue of a word that is no command only reports it (R88). -/
theorem issue_of_illegal {w : Word} {why : DecodeError} {s : State} (hw : decode w = .illegal why)
    (hidle : s.regs.busy = false) : issue w s = .next (errorComplete (opField w) .illegalCmd s) := by
  simp [issue, hw, illegalCommand, hidle]

/-- Settles O5: the CMD write is the issue of a word that is no command. -/
theorem illegalWordCompletesAtIssue : Obligations.IllegalWordCompletesAtIssue := by
  intro s w rest ht hr hidle hw
  obtain ⟨why, hwhy⟩ := exists_decode_eq_illegal hw
  rw [step_cmdWrite ht hr, issue_of_illegal (s := s.answerWrite rest) hwhy hidle, opField_eq_ofNat]
  rfl

/-- Settles O8: the register conditions pass every check. -/
theorem passingCommandStarts : Obligations.PassingCommandStarts := fun _ _ h => h.exec_eq

end Sys2Proof.Machine
end

section
/-! SUPPORT. The issue of a command (R83 to R89, R93): what a CMD write does while BUSY, what NOP does, and the checks of
R86 read off the registers. -/

namespace Sys2Proof.Machine

/-- While BUSY the issue of any word is lost (R84). -/
theorem issue_busy (w : Word) {s : State} (h : s.regs.busy = true) : issue w s = .next (commandLost s) := by
  rcases issue_cases w s with ⟨-, e⟩ | ⟨hidle, -⟩ | ⟨hidle, -⟩
  · exact e
  · simp [h] at hidle
  · simp [h] at hidle

/-- Settles O6: the CMD write is an issue, which is lost. -/
theorem commandWriteWhileBusyIsLost : Obligations.CommandWriteWhileBusyIsLost := by
  intro s w rest ht hr hb
  rw [step_cmdWrite ht hr, issue_busy w (s := s.answerWrite rest) hb]
  rfl

/-- Settles O7: with BUSY = 0 NOP reports at once. -/
theorem nopCompletesAtIssue : Obligations.NopCompletesAtIssue := by
  intro s hidle
  rw [exec_nop, execNop, hidle]
  rfl

/-! ### The checks of R86 by the registers -/

/-- Accept(op) by the registers (R95). -/
theorem accepts_snapshot_eq_false_iff (op : ImageOp) (s : State) :
    accepts (snapshot op s.regs).op (snapshot op s.regs).src.c = false ↔ ¬ channelsAccepted op s := by
  change accepts op (channels s) = false ↔ _
  cases op <;> simp [accepts, channelsAccepted, and_comm]

/-- ParamBad(op, s) by the registers (R97). -/
theorem paramBad_snapshot_iff (op : ImageOp) (s : State) :
    paramBad (snapshot op s.regs) = true ↔ paramWrong op s := by
  refine ⟨fun hbad => ?_, fun hwrong => ?_⟩
  · by_contra hok
    simp [paramBad_snapshot hok] at hbad
  · rcases hwrong with ⟨rfl, hg⟩ | ⟨rfl, hc⟩ | ⟨rfl, hk⟩
    · simp [paramBad, snapshot, commandPar, hg]
    · rcases hc with hc | hc <;> simp [paramBad, snapshot, commandPar, hc]
    · rcases hk with hk | hk | hk
      · simp [paramBad, snapshot, commandPar, hk]
      · simp only [rows, cols] at hk
        simp [paramBad, snapshot, commandPar, hk]
      · simp [paramBad, snapshot, commandPar, hk]

/-- The number of the code of R86's first failing check, 0 where none fails, with R87's bounds over H·W·C bytes: a channel
count that is accepted is the destination's too (R95). -/
theorem toBits_checkImage_snapshot (op : ImageOp) (s : State) : open Classical in
    (checkImage s.params (snapshot op s.regs)).toBits =
      if rows s = 0 ∨ cols s = 0 ∨ s.params.maxDim < rows s ∨ s.params.maxDim < cols s then 2#4
      else if ¬ channelsAccepted op s then 3#4
      else if paramWrong op s then 4#4
      else if s.params.pmemBytes < s.regs.srcBase.toNat + imageSize s ∨
          s.params.pmemBytes < s.regs.dstBase.toNat + imageSize s then 5#4
      else if s.regs.srcBase.toNat < s.regs.dstBase.toNat + imageSize s ∧
          s.regs.dstBase.toNat < s.regs.srcBase.toNat + imageSize s then 6#4
      else 0#4 := by
  rw [checkImage]
  simp only [apply_ite ErrCode.toBits]
  refine if_congr Iff.rfl rfl ?_
  by_cases hacc : channelsAccepted op s
  · have hfits : ((snapshot op s.regs).src.fits s.params = false ∨ (snapshot op s.regs).dst.fits s.params = false) ↔
        (s.params.pmemBytes < s.regs.srcBase.toNat + imageSize s ∨
          s.params.pmemBytes < s.regs.dstBase.toNat + imageSize s) := by
      rw [Image.fits, Image.fits, decide_eq_false_iff_not, decide_eq_false_iff_not, not_le, not_le, snapshot_src_size,
        snapshot_dst_size hacc]
      rfl
    have hover : Image.overlap (snapshot op s.regs).src (snapshot op s.regs).dst = true ↔
        (s.regs.srcBase.toNat < s.regs.dstBase.toNat + imageSize s ∧
          s.regs.dstBase.toNat < s.regs.srcBase.toNat + imageSize s) := by
      rw [Image.overlap, Bool.and_eq_true, decide_eq_true_eq, decide_eq_true_eq, snapshot_src_size,
        snapshot_dst_size hacc]
      rfl
    classical
    exact if_congr (accepts_snapshot_eq_false_iff op s) rfl
      (if_congr (paramBad_snapshot_iff op s) rfl (if_congr hfits rfl (if_congr hover rfl rfl)))
  · rw [if_pos hacc]
    exact if_pos ((accepts_snapshot_eq_false_iff op s).2 hacc)

/-- Settles O9: R86's chain by the registers gives the code, and a code other than 0 completes the command (R88). -/
theorem firstFailingCheckIsReported : Obligations.FirstFailingCheckIsReported := by
  intro op s code hidle hcode hne
  rw [← toBits_checkImage_snapshot] at hcode
  have hfails : checkImage s.params (snapshot op s.regs) ≠ .ok := fun hok => hne (by rw [hcode, hok]; rfl)
  rw [exec_image, issueImage_fails hidle hfails, hcode]
  rfl

end Sys2Proof.Machine
end

section
/-! SUPPORT. The pixels of a result (R50, R96): its places, tables made over a range, and the plane of one channel. -/

namespace Sys2Proof.Machine

/-- A table made over a range at one of its places. -/
theorem getD_map_range {α : Type} (f : Nat → α) (d : α) {n k : Nat} (hk : k < n) :
    ((List.range n).map f).getD k d = f k := by
  simp [List.getD_eq_getElem?_getD, hk]

/-- Every value of an H × W × C list stands at a pixel's place (R50). -/
theorem exists_pixel_of_mem {l : List Nat} {h w c v : Nat} (hl : l.length = h * w * c) (hv : v ∈ l) :
    ∃ r cc ch, r < h ∧ cc < w ∧ ch < c ∧ l[(r * w + cc) * c + ch]? = some v := by
  obtain ⟨k, hk, rfl⟩ := List.mem_iff_getElem.1 hv
  have hlt : k < h * w * c := hl ▸ hk
  have hc : 0 < c := Nat.pos_of_mul_pos_left (Nat.zero_lt_of_lt hlt)
  have hrow : k / c < h * w := (Nat.div_lt_iff_lt_mul hc).2 hlt
  have hw : 0 < w := Nat.pos_of_mul_pos_left (Nat.zero_lt_of_lt hrow)
  refine ⟨k / c / w, k / c % w, k % c, (Nat.div_lt_iff_lt_mul hw).2 hrow, Nat.mod_lt _ hw, Nat.mod_lt _ hc, ?_⟩
  rw [Nat.div_add_mod', Nat.div_add_mod', List.getElem?_eq_getElem hk]

/-- A pixel's value is in its channel's plane (R94). -/
theorem pix_mem_planeValues {i : SrcImage} {r c ch : Nat} (hr : r < i.h) (hc : c < i.w) :
    i.pix r c ch ∈ i.planeValues ch :=
  List.mem_map.2 ⟨r * i.w + c, List.mem_range.2 (row_index_lt hr hc), rfl⟩

/-- The values of a channel are those of its plane (R94). -/
theorem ImageIs.planeValues_channel {s : State} {px : Nat → Nat → Nat → Nat} {i : SrcImage} (h : ImageIs s px i)
    {ch : Nat} (hch : ch < channels s) :
    i.planeValues ch = planeList (rows s) (cols s) fun r c => px r c ch := by
  rw [SrcImage.planeValues, planeList, h.h, h.w]
  refine List.map_congr_left fun k hk => ?_
  have hlt : k < rows s * cols s := List.mem_range.1 hk
  have hw : 0 < cols s := Nat.pos_of_mul_pos_left (Nat.zero_lt_of_lt hlt)
  have hpix := h.pix (k / cols s) (k % cols s) ch ((Nat.div_lt_iff_lt_mul hw).2 hlt) (Nat.mod_lt _ hw) hch
  rwa [SrcImage.pix, h.w, Nat.div_add_mod'] at hpix

end Sys2Proof.Machine
end

section
/-! SUPPORT. CSTRETCH and GAMMA (41_contrast_enhancer.md R101 to R105). -/

namespace Sys2Proof.Machine

/-! ### CSTRETCH (R101) -/

theorem le_planeMax {ys : List Nat} {x : Nat} (hx : x ∈ ys) : x ≤ planeMax ys := by
  induction ys with
  | nil => cases hx
  | cons y ys ih =>
    rcases List.mem_cons.1 hx with rfl | hx
    · exact le_max_left _ _
    · exact (ih hx).trans (le_max_right _ _)

theorem planeMax_le {ys : List Nat} {b : Nat} (h : ∀ x ∈ ys, x ≤ b) : planeMax ys ≤ b := by
  induction ys with
  | nil => exact Nat.zero_le b
  | cons y ys ih => exact max_le (h y (by simp)) (ih fun x hx => h x (by simp [hx]))

/-- The maximum of a list is its greatest value (R101). -/
theorem planeMax_eq {ys : List Nat} {mx : Nat} (hmem : mx ∈ ys) (hle : ∀ x ∈ ys, x ≤ mx) : planeMax ys = mx :=
  le_antisymm (planeMax_le hle) (le_planeMax hmem)

/-- A byte that is no more than the maximum is stretched to a byte. -/
theorem stretch_lt {mn mx v : Nat} (hv : v < 256) (hle : v ≤ mx) : stretch mn mx v < 256 := by
  unfold stretch
  split
  · exact hv
  · refine Nat.lt_succ_of_le (Nat.div_le_of_le_mul ?_)
    exact Nat.mul_le_mul_right 255 (Nat.sub_le_sub_right hle mn)

/-- A pixel of CSTRETCH's result. -/
theorem resultCstretch_at {i : SrcImage} {r c ch : Nat} (hr : r < i.h) (hc : c < i.w) (hch : ch < i.c) :
    (resultCstretch i)[(r * i.w + c) * i.c + ch]? =
      some (stretch (planeMin (i.planeValues ch)) (planeMax (i.planeValues ch)) (i.pix r c ch)) := by
  rw [resultCstretch, layout_at _ hr hc hch, getD_map_range _ _ hch, getD_map_range _ _ hch]

/-- Settles O10: the machine's minimum and maximum over a channel's list are the least and the greatest value of its
plane. -/
theorem cstretchStretchesEachChannel : Obligations.CstretchStretchesEachChannel := by
  intro s rest px hr h hs
  refine runsTo_of_resultPixels rest hr h hs fun i hi r c ch hrow hcol hch => ?_
  have hpix : i.pix r c ch = px r c ch := hi.pix r c ch hrow hcol hch
  have hbyte : px r c ch < 256 := (hs r c ch hrow hcol hch).1
  have hmax : px r c ch ≤ planeMax (i.planeValues ch) :=
    hpix ▸ le_planeMax (pix_mem_planeValues (hi.h ▸ hrow) (hi.w ▸ hcol))
  have hat := resultCstretch_at (hi.h ▸ hrow) (hi.w ▸ hcol) (hi.c ▸ hch)
  rw [hi.w, hi.c, hpix] at hat
  refine ⟨_, hat, stretch_lt hbyte hmax, fun mn mx hmn hmx => ?_⟩
  have hmn255 : mn ≤ 255 := (hmn.2 ⟨r, c, hrow, hcol, rfl⟩).trans (Nat.le_of_lt_succ hbyte)
  rw [hi.planeValues_channel hch, planeMin_eq (mem_planeList.2 hmn.1) (fun x hx => hmn.2 (mem_planeList.1 hx)) hmn255,
    planeMax_eq (mem_planeList.2 hmx.1) fun x hx => hmx.2 (mem_planeList.1 hx)]
  rfl

/-! ### GAMMA (R103, R105) -/

/-- The LUT's entry is the number of the k that R105 counts. -/
theorem gammaLut_eq_card (g i : Nat) : gammaLut g i =
    ((Finset.range 255).filter fun k => (2 * k + 1) ^ g * 255 ^ 256 < i ^ 256 * 510 ^ g).card :=
  List.countP_eq_length_filter

/-- Of 255 numbers at most 255 are counted. -/
theorem gammaLut_lt (g i : Nat) : gammaLut g i < 256 := by
  rw [gammaLut]
  exact Nat.lt_succ_of_le (List.countP_le_length.trans List.length_range.le)

/-- A pixel of GAMMA's result. -/
theorem resultGamma_at {i : SrcImage} {r c ch : Nat} (g : Nat) (hr : r < i.h) (hc : c < i.w) (hch : ch < i.c)
    (hpix : i.pix r c ch < 256) :
    (resultGamma i g)[(r * i.w + c) * i.c + ch]? = some (gammaLut g (i.pix r c ch)) := by
  rw [resultGamma, layout_at _ hr hc hch, table_getD _ hpix]

/-- Settles O11: the table's entry of a byte is the rule's count. -/
theorem gammaAppliesTheLut : Obligations.GammaAppliesTheLut := by
  intro s rest px hr h hs
  refine runsTo_of_resultPixels rest hr h hs fun i hi r c ch hrow hcol hch => ?_
  have hpix : i.pix r c ch = px r c ch := hi.pix r c ch hrow hcol hch
  have hat := resultGamma_at s.regs.gammaG.toNat (hi.h ▸ hrow) (hi.w ▸ hcol) (hi.c ▸ hch)
    (hpix ▸ (hs r c ch hrow hcol hch).1)
  rw [hi.w, hi.c, hpix] at hat
  exact ⟨_, hat, gammaLut_lt _ _, gammaLut_eq_card _ _⟩

end Sys2Proof.Machine
end

section
/-! SUPPORT. BUTTER and WIENER (42_restoration_filter.md R113, R114, R119, R123): one filtered gray plane on three
channels. -/

namespace Sys2Proof.Machine

/-! ### Planes given as rows -/

/-- An entry of a plane made row by row. -/
theorem planeAt_map_range (f : Nat → Nat → Nat) {h w r c : Nat} (hr : r < h) (hc : c < w) :
    planeAt ((List.range h).map fun r => (List.range w).map (f r)) r c = f r c := by
  rw [planeAt, getD_map_range _ _ hr, getD_map_range _ _ hc]

/-- The luma of an H × W colour plane, as rows (R113). -/
def lumaRows (h w : Nat) (px : Nat → Nat → Nat → Nat) : List (List Nat) :=
  (List.range h).map fun r => (List.range w).map (lumaAt px r)

/-- It has H rows of W values, each the rule's luma (R113). -/
theorem lumaRows_spec (h w : Nat) (px : Nat → Nat → Nat → Nat) :
    (lumaRows h w px).length = h ∧ (∀ row ∈ lumaRows h w px, row.length = w) ∧
      ∀ r c, r < h → c < w → (planeAt (lumaRows h w px) r c : ℤ) = idealLuma (px r c 0) (px r c 1) (px r c 2) := by
  refine ⟨by simp [lumaRows], fun row hrow => ?_, fun r c hr hc => ?_⟩
  · obtain ⟨r, -, rfl⟩ := List.mem_map.1 hrow
    simp
  · rw [lumaRows, planeAt_map_range _ hr hc, lumaAt, luma_cast]

/-- The gray plane of a colour image is its luma (R113). -/
theorem ImageIs.grayPlane {s : State} {px : Nat → Nat → Nat → Nat} {i : SrcImage} (h : ImageIs s px i)
    (hc : channels s = 3) : grayPlane i = lumaRows (rows s) (cols s) px := by
  rw [Machine.grayPlane, lumaRows, h.h, h.w]
  refine List.map_congr_left fun r hr => List.map_congr_left fun c hcol => ?_
  have hpix : ∀ ch, ch < 3 → i.pix r c ch = px r c ch := fun ch hch =>
    h.pix r c ch (List.mem_range.1 hr) (List.mem_range.1 hcol) (by omega)
  rw [hpix 0 (by decide), hpix 1 (by decide), hpix 2 (by decide)]
  rfl

/-! ### The pixel (R122, R123) -/

theorem greatestReached_lt (reach : Nat → Bool) (b acc : Nat) : greatestReached reach b acc < acc + 2 ^ b := by
  induction b generalizing acc with
  | zero => exact Nat.lt_succ_self acc
  | succ b ih =>
    rw [greatestReached, pow_succ]
    split
    · have := ih (acc + 2 ^ b)
      omega
    · have := ih acc
      omega

/-- `quant` gives a byte (R12). -/
theorem quantMagnitude_lt (n : Nat) (y : Frac) (q : Int) (d : Nat) : quantMagnitude n y q d < 256 :=
  greatestReached_lt _ 8 0

/-- So the clamped free byte is a byte (R123). -/
theorem freqPixel_lt (p : Params) (op : BitVec 8) (g : List (List Nat)) (par : CommandPar) (n : Nat) (y : Frac)
    (r c : Nat) : freqPixel p op g par n y r c < 256 :=
  max_lt (quantMagnitude_lt _ _ _ _) ((min_le_right _ _).trans_lt (Config.freqByte op g par r c).isLt)

/-- A pixel of the expansion of a filtered plane to three channels (R114). -/
theorem expand3_freqOut_at (p : Params) (op : BitVec 8) (g : List (List Nat)) (par : CommandPar)
    (spec : List (List Frac)) {h w r c ch : Nat} (hr : r < h) (hc : c < w) (hch : ch < 3) :
    (expand3 h w (freqOut p op h w g par spec))[(r * w + c) * 3 + ch]? =
      some (freqPixel p op g par (rootOrder h w) (idft2 h w spec r c) r c) := by
  rw [expand3, layout_at _ hr hc hch, freqOut, planeAt_map_range _ hr hc]

/-! ### The commands -/

/-- A command whose result is a filtered gray plane on three channels runs, with the spectrum `spec` of the luma. -/
theorem runsTo_of_freqOut {op : ImageOp} {s : State} {px : Nat → Nat → Nat → Nat}
    {spec : Nat → Nat → List (List Nat) → List (List Frac)} (rest : List Turn) (hr : s.resetAsserted = false)
    (h : Issuable op s) (hs : SourceIs s px) (hc : channels s = 3)
    (hres : ∀ i, resultPixels s.params (snapshot op s.regs) i = expand3 i.h i.w
      (freqOut s.params op.opcode i.h i.w (grayPlane i) (commandPar s.regs) (spec i.h i.w (grayPlane i)))) :
    RunsTo op s rest fun r c _ v =>
      v = freqPixel s.params op.opcode (lumaRows (rows s) (cols s) px) (commandPar s.regs)
        (rootOrder (rows s) (cols s))
        (idft2 (rows s) (cols s) (spec (rows s) (cols s) (lumaRows (rows s) (cols s) px)) r c) r c := by
  refine runsTo_of_resultPixels rest hr h hs fun i hi r c ch hrow hcol hch => ⟨_, ?_, freqPixel_lt _ _ _ _ _ _ _ _, rfl⟩
  rw [hres, hi.h, hi.w, hi.grayPlane hc, hc]
  exact expand3_freqOut_at _ _ _ _ _ hrow hcol (by omega)

/-- Settles O14: the gray plane is the luma, and the spectrum is the masked one. -/
theorem butterFiltersTheGrayPlane : Obligations.ButterFiltersTheGrayPlane := by
  intro s rest px hr h hs
  have hc : channels s = 3 := by simpa [channelsAccepted] using h.accepted
  exact ⟨_, lumaRows_spec _ _ px, runsTo_of_freqOut rest hr h hs hc
    (spec := fun h w g => butterSpectrum h w g s.regs.bwCut.toNat s.regs.bwOrd.toNat) fun _ => rfl⟩

/-- Settles O15: the gray plane is the luma, and the spectrum is the Wiener one. -/
theorem wienerFiltersTheGrayPlane : Obligations.WienerFiltersTheGrayPlane := by
  intro s rest px hr h hs
  have hc : channels s = 3 := by simpa [channelsAccepted] using h.accepted
  exact ⟨_, lumaRows_spec _ _ px, runsTo_of_freqOut rest hr h hs hc
    (spec := fun h w g => wienerSpectrum h w g s.regs.wnK.toNat s.regs.wnNp.toNat) fun _ => rfl⟩

end Sys2Proof.Machine
end

section
/-! SUPPORT. MEDIAN (42_restoration_filter.md R126): an entry of a sorted list has no more values below it than places
before it, and no more above it than places after it; the window is a list over 5×5 places. -/

namespace Sys2Proof.Machine

/-! ### The middle of a sorted list (R12) -/

section
variable {l : List Nat}

/-- At most `k` values of a sorted list are below its entry `k`. -/
theorem countP_lt_getElem_le (h : l.SortedLE) {k : Nat} (hk : k < l.length) : l.countP (· < l[k]) ≤ k := by
  have hafter : (l.drop k).countP (· < l[k]) = 0 := by
    refine List.countP_eq_zero.2 fun x hx => ?_
    obtain ⟨j, hj, rfl⟩ := List.mem_iff_getElem.1 hx
    have hle : l[k] ≤ (l.drop k)[j] := by
      rw [List.getElem_drop]
      exact h.getElem_le_getElem_of_le (Nat.le_add_right k j)
    simpa using hle
  calc l.countP (· < l[k]) = (l.take k).countP (· < l[k]) + (l.drop k).countP (· < l[k]) := by
        rw [← List.countP_append, List.take_append_drop]
    _ = (l.take k).countP (· < l[k]) := by rw [hafter, Nat.add_zero]
    _ ≤ k := List.countP_le_length.trans (List.length_take_le k l)

/-- The values above its entry `k` are at most those after it. -/
theorem countP_getElem_lt_le (h : l.SortedLE) {k : Nat} (hk : k < l.length) :
    l.countP (l[k] < ·) ≤ l.length - (k + 1) := by
  have hupto : (l.take (k + 1)).countP (l[k] < ·) = 0 := by
    refine List.countP_eq_zero.2 fun x hx => ?_
    obtain ⟨j, hj, rfl⟩ := List.mem_iff_getElem.1 hx
    have hle : (l.take (k + 1))[j] ≤ l[k] := by
      rw [List.getElem_take]
      rw [List.length_take] at hj
      exact h.getElem_le_getElem_of_le (by omega)
    simpa using hle
  calc l.countP (l[k] < ·) = (l.take (k + 1)).countP (l[k] < ·) + (l.drop (k + 1)).countP (l[k] < ·) := by
        rw [← List.countP_append, List.take_append_drop]
    _ = (l.drop (k + 1)).countP (l[k] < ·) := by rw [hupto, Nat.zero_add]
    _ ≤ l.length - (k + 1) := List.countP_le_length.trans List.length_drop.le

/-- The median of 25 values is an entry of the sorted list. -/
theorem exists_median25_eq_getElem (hl : l.length = 25) :
    ∃ h : 12 < (l.insertionSort (· ≤ ·)).length, median25 l = (l.insertionSort (· ≤ ·))[12] := by
  have h : 12 < (l.insertionSort (· ≤ ·)).length := by
    rw [List.length_insertionSort, hl]
    decide
  exact ⟨h, by rw [median25, List.getD_eq_getElem _ _ h]⟩

/-- The median is one of the values. -/
theorem median25_mem (hl : l.length = 25) : median25 l ∈ l := by
  obtain ⟨h, e⟩ := exists_median25_eq_getElem hl
  rw [e, ← List.mem_insertionSort (· ≤ ·)]
  exact List.getElem_mem h

/-- At most 12 of the 25 values are below the median (R126). -/
theorem countP_lt_median25_le (hl : l.length = 25) : l.countP (· < median25 l) ≤ 12 := by
  obtain ⟨h, e⟩ := exists_median25_eq_getElem hl
  rw [e, ← (List.perm_insertionSort (· ≤ ·) l).countP_eq]
  exact countP_lt_getElem_le List.sortedLE_insertionSort h

/-- At most 12 are above it (R126). -/
theorem countP_median25_lt_le (hl : l.length = 25) : l.countP (median25 l < ·) ≤ 12 := by
  obtain ⟨h, e⟩ := exists_median25_eq_getElem hl
  rw [e, ← (List.perm_insertionSort (· ≤ ·) l).countP_eq]
  refine (countP_getElem_lt_le List.sortedLE_insertionSort h).trans ?_
  rw [List.length_insertionSort, hl]

end

/-! ### The window (R126) -/

/-- The 5×5 places of the window, row by row. -/
def windowPlaces : List (Nat × Nat) := List.range 5 ×ˢ List.range 5

/-- The source value at a place of the window around (r, c), coordinates clamped to the image. -/
def windowAt (s : State) (px : Nat → Nat → Nat → Nat) (r c ch : Nat) (de : Nat × Nat) : Nat :=
  px (min (rows s - 1) (r + de.1 - 2)) (min (cols s - 1) (c + de.2 - 2)) ch

/-- The machine's window, place by place. -/
theorem window25_eq_map (i : SrcImage) (r c ch : Nat) : window25 i r c ch = windowPlaces.map fun de =>
    i.pix (clampIndex ((r : Int) + de.1 - 2) (i.h - 1)) (clampIndex ((c : Int) + de.2 - 2) (i.w - 1)) ch := rfl

@[simp] theorem window25_length (i : SrcImage) (r c ch : Nat) : (window25 i r c ch).length = 25 := by
  rw [window25_eq_map, List.length_map]
  rfl

/-- Clamping a window coordinate in the integers is truncation at 0 in the naturals. -/
theorem clampIndex_window (r d hi : Nat) : clampIndex ((r : Int) + d - 2) hi = min hi (r + d - 2) := by
  unfold clampIndex
  omega

/-- Every window value is a pixel of the image. -/
theorem exists_pix_of_mem_window25 {i : SrcImage} {r c ch v : Nat} (h : v ∈ window25 i r c ch) :
    ∃ r' c', v = i.pix r' c' ch := by
  rw [window25_eq_map] at h
  obtain ⟨de, -, rfl⟩ := List.mem_map.1 h
  exact ⟨_, _, rfl⟩

theorem mem_windowPlaces {de : Nat × Nat} : de ∈ windowPlaces ↔ de ∈ Finset.range 5 ×ˢ Finset.range 5 := Iff.rfl

/-- Counting over the window's places (R126). -/
theorem card_filter_windowPlaces (f : Nat × Nat → Nat) (q : Nat → Prop) [DecidablePred q] :
    ((Finset.range 5 ×ˢ Finset.range 5).filter fun de => q (f de)).card = (windowPlaces.map f).countP q := by
  rw [List.countP_map, List.countP_eq_length_filter]
  rfl

/-- A pixel of MEDIAN's result. -/
theorem resultMedian_at {i : SrcImage} {r c ch : Nat} (hr : r < i.h) (hc : c < i.w) (hch : ch < i.c) :
    (resultMedian i)[(r * i.w + c) * i.c + ch]? = some (median25 (window25 i r c ch)) := by
  rw [resultMedian, layout_at _ hr hc hch]

section
variable {s : State} {px : Nat → Nat → Nat → Nat} {i : SrcImage} {r c ch : Nat}

/-- The machine's window is the list of the values at its places. -/
theorem ImageIs.window25 (h : ImageIs s px i) (hr : r < rows s) (hc : c < cols s) (hch : ch < channels s) :
    window25 i r c ch = windowPlaces.map (windowAt s px r c ch) := by
  rw [window25_eq_map, h.h, h.w]
  refine List.map_congr_left fun de _ => ?_
  rw [clampIndex_window, clampIndex_window]
  exact h.pix _ _ _ (by omega) (by omega) hch

/-- Every value at a place of the window is a byte. -/
theorem SourceIs.windowAt_lt (h : SourceIs s px) (hr : r < rows s) (hc : c < cols s) (hch : ch < channels s)
    (de : Nat × Nat) : windowAt s px r c ch de < 256 :=
  (h _ _ ch (by omega) (by omega) hch).1

end

/-- Settles O16: the window's values are those at its 25 places, and the machine's median is in the middle of them. -/
theorem medianOfTheReplicatedWindow : Obligations.MedianOfTheReplicatedWindow := by
  intro s rest px hr h hs
  refine runsTo_of_resultPixels rest hr h hs fun i hi r c ch hrow hcol hch => ?_
  have hat := resultMedian_at (hi.h ▸ hrow) (hi.w ▸ hcol) (hi.c ▸ hch)
  rw [hi.w, hi.c, hi.window25 hrow hcol hch] at hat
  have hl : (windowPlaces.map (windowAt s px r c ch)).length = 25 := List.length_map _
  obtain ⟨de, hde, hv⟩ := List.mem_map.1 (median25_mem hl)
  refine ⟨_, hat, hv ▸ hs.windowAt_lt hrow hcol hch de, ⟨de, mem_windowPlaces.1 hde, hv⟩, ?_, ?_⟩
  · exact (card_filter_windowPlaces (windowAt s px r c ch) (· < median25 _)).trans_le (countP_lt_median25_le hl)
  · exact (card_filter_windowPlaces (windowAt s px r c ch) (median25 _ < ·)).trans_le (countP_median25_lt_le hl)

end Sys2Proof.Machine
end

section
/-! SUPPORT. Every result is made of bytes (R96): at each place of the destination extent stands one. -/

namespace Sys2Proof.Machine

section
variable {i : SrcImage} {r c ch : Nat}

/-- A pixel of HISTEQ's result is a byte (R107, R110). -/
theorem exists_resultHisteq_at (hr : r < i.h) (hc : c < i.w) (hch : ch < i.c) (hpix : i.pix r c ch < 256) :
    ∃ v, (resultHisteq i)[(r * i.w + c) * i.c + ch]? = some v ∧ v < 256 := by
  rw [resultHisteq]
  split
  · rw [layout_at _ hr hc hch, table_getD _ hpix]
    exact ⟨_, rfl, heqLut_lt _ hpix⟩
  · rw [layout_at _ hr hc hch]
    exact ⟨_, rfl, fromYCrCb_lt _ _ _ _⟩

/-- A pixel of a filtered plane on three channels is a byte (R114, R123). -/
theorem exists_expand3_freqOut_at (p : Params) (op : BitVec 8) (g : List (List Nat)) (par : CommandPar)
    (spec : List (List Frac)) (h3 : i.c = 3) (hr : r < i.h) (hc : c < i.w) (hch : ch < i.c) :
    ∃ v, (expand3 i.h i.w (freqOut p op i.h i.w g par spec))[(r * i.w + c) * i.c + ch]? = some v ∧ v < 256 := by
  rw [h3] at hch ⊢
  exact ⟨_, expand3_freqOut_at p op g par spec hr hc hch, freqPixel_lt _ _ _ _ _ _ _ _⟩

/-- A pixel of MEDIAN's result is one of the source's, and so a byte (R126). -/
theorem median25_window25_lt (hpix : ∀ r c, i.pix r c ch < 256) : median25 (window25 i r c ch) < 256 := by
  obtain ⟨r', c', e⟩ := exists_pix_of_mem_window25 (median25_mem (window25_length i r c ch))
  exact e ▸ hpix r' c'

/-- Every pixel of a result is a byte, whatever the command (R96). -/
theorem exists_resultPixels_at (p : Params) {f : Inflight} (hacc : accepts f.op i.c = true)
    (hpix : ∀ r c ch, i.pix r c ch < 256) (hr : r < i.h) (hc : c < i.w) (hch : ch < i.c) :
    ∃ v, (resultPixels p f i)[(r * i.w + c) * i.c + ch]? = some v ∧ v < 256 := by
  have hthree : f.op = .butter ∨ f.op = .wiener → i.c = 3 := by
    rintro (ho | ho) <;> simpa [ho, accepts] using hacc
  rw [resultPixels]
  split
  · exact ⟨_, resultCstretch_at hr hc hch, stretch_lt (hpix r c ch) (le_planeMax (pix_mem_planeValues hr hc))⟩
  · exact ⟨_, resultGamma_at _ hr hc hch (hpix r c ch), gammaLut_lt _ _⟩
  · exact exists_resultHisteq_at hr hc hch (hpix r c ch)
  · rename_i ho
    exact exists_expand3_freqOut_at p _ _ _ _ (hthree (.inl ho)) hr hc hch
  · rename_i ho
    exact exists_expand3_freqOut_at p _ _ _ _ (hthree (.inr ho)) hr hc hch
  · exact ⟨_, resultMedian_at hr hc hch, median25_window25_lt fun r c => hpix r c ch⟩

end

/-- A record's channel count is accepted (R95). -/
theorem recordOk.accepts {p : Params} {f : Inflight} (h : recordOk p f) : accepts f.op f.src.c = true := by
  obtain ⟨-, -, -, -, hacc, -⟩ := checkImage_eq_ok h.1
  exact hacc

/-- Its destination has the shape of its source (R51, R95). -/
theorem recordOk.dst_size {p : Params} {f : Inflight} (h : recordOk p f) : f.dst.size = f.src.size := by
  have ⟨_, hh, hw, hc⟩ := h
  rw [Image.size, hh, hw, hc, cout_of_accepts h.accepts, Image.size]

/-- Settles O25: the result has the destination's size, and a byte at the place of each pixel. -/
theorem resultsAreWholePixels : Obligations.ResultsAreWholePixels := by
  intro p f m i hf hi
  have hlen := resultPixels_length hf hi
  refine ⟨hlen, fun v hv => ?_⟩
  obtain ⟨eh, ew, ec, -⟩ := sourceImage_shape hi
  rw [hf.dst_size, Image.size, ← eh, ← ew, ← ec] at hlen
  obtain ⟨r, c, ch, hr, hcol, hch, hat⟩ := exists_pixel_of_mem hlen hv
  obtain ⟨v', hat', hlt⟩ := exists_resultPixels_at p (ec ▸ hf.accepts) (sourceImage_pix_lt hi) hr hcol hch
  cases hat.symm.trans hat'
  exact Nat.le_of_lt_succ hlt

end Sys2Proof.Machine
end

section
/-! SUPPORT. A command in flight completes (R90): harmless turns leave the record as it is, and the turns run out. -/

namespace Sys2Proof.Machine

/-- Within `n` steps the command `f` completes: nothing is in flight, and STATUS reports it (R91). -/
def CompletesWithin (f : Inflight) (n : Nat) (s : State) : Prop :=
  ∃ (k : Nat) (t : State), k ≤ n ∧ core.run k s = .next t ∧ t.inflight = none ∧
    t.regs.busy = false ∧ t.regs.done = true ∧ t.regs.errCode = 0#4 ∧ t.regs.lastOp = f.op.opcode

section
variable {f : Inflight} {n : Nat} {s s' : State}

/-- One step before the others. -/
theorem CompletesWithin.succ (e : step s = .next s') (h : CompletesWithin f n s') : CompletesWithin f (n + 1) s := by
  obtain ⟨k, t, hk, hrun, hdone⟩ := h
  exact ⟨k + 1, t, by omega, (run_succ (M := core) k e).trans hrun, hdone⟩

/-- The core's turn completes the command (R91). -/
theorem completesWithin_one (hf : s.inflight = some f) (hr : s.resetAsserted = false)
    (e : step s' = .next (coreTurn s)) : CompletesWithin f 1 s' := by
  refine ⟨1, complete s, le_rfl, ?_, ?_⟩
  · rw [coreTurn, if_neg (by simp [hr])] at e
    exact run_succ (M := core) 0 e
  · rw [complete_some s f hf]
    exact ⟨rfl, rfl, rfl, rfl, rfl⟩

/-- A register write that is no soft reset leaves the record (R146). -/
theorem regWrite_inflight {r : RegName} {v : Word} (h : r = .ctrl → v.getLsbD 1 = false) :
    (regWrite v s r).inflight = s.inflight := by
  cases r with
  | ctrl => rw [regWrite, writeCtrl_of_not_srst (h rfl)]
  | _ => rfl

/-- A host write in the window that is no soft reset leaves a command in flight (R61, R62, R84). -/
theorem busWrite_keeps_inflight {off : Nat} {d : Datum} (hb : s.regs.busy = true)
    (hsrst : ∀ v : Word, d = .b32 v → off = regOffset .ctrl → v.getLsbD 1 = false) :
    ∃ s', busWrite off d s = .next s' ∧ s'.inflight = s.inflight ∧ s'.resetAsserted = s.resetAsserted ∧
      s'.turns = s.turns := by
  rcases busWrite_cases off d s with ⟨x, e⟩ | ⟨v, r, -, ho, hd, e⟩ | ⟨w, -, -, e⟩ | ⟨a, -, -, e⟩
  · exact ⟨_, e, rfl, rfl, rfl⟩
  · exact ⟨_, e, regWrite_inflight fun hr => hsrst v hd (hr ▸ ho), by simp, by simp⟩
  · exact ⟨_, e.trans (issue_busy w (s := s.respond .done) hb), rfl, rfl, rfl⟩
  · exact ⟨_, e, by simp, by simp, by simp⟩

/-- A harmless turn other than the core's leaves a command in flight. -/
theorem step_harmless {t : Turn} {rest : List Turn} (hb : s.regs.busy = true) (hr : s.resetAsserted = false)
    (ht : s.turns = t :: rest) (h : t.harmless s.params) (hcore : t ≠ .core) :
    ∃ s', step s = .next s' ∧ s'.inflight = s.inflight ∧ s'.resetAsserted = s.resetAsserted ∧ s'.turns = rest := by
  match t, h with
  | .core, _ => exact absurd rfl hcore
  | .host (.read addr w), hw =>
    obtain ⟨x, hx⟩ := exists_busRead_eq_respond (windowOffset addr) w (s.advanceRead rest)
    exact ⟨_, (step_read_inWindow ht ((inWindow_iff _ _).2 hw) hr).trans (congrArg _ hx), rfl, rfl, rfl⟩
  | .host (.write addr d), ⟨hw, hsrst⟩ =>
    rw [step_host ht, takeTurn_write, hostAccess_write (s := s.advance rest) ((inWindow_iff _ _).2 hw) hr]
    refine busWrite_keeps_inflight (s := s.advance rest) hb fun v hd ho => hsrst v hd ?_
    rwa [windowOffset_eq_mod] at ho
  | .releaseReset, _ =>
    refine ⟨_, step_releaseReset ht, ?_⟩
    rw [releaseTurn, if_neg (by simp [hr])]
    exact ⟨rfl, rfl, rfl⟩

end

/-- With harmless turns the command completes at the core's first turn, or once the turns have run out (R90). -/
theorem completesWithin_of_harmless {f : Inflight} (ts : List Turn) {s : State} (ht : s.turns = ts) (hs : s.Inv)
    (hf : s.inflight = some f) (hr : s.resetAsserted = false) (h : ∀ t ∈ ts, t.harmless s.params) :
    CompletesWithin f (ts.length + 1) s := by
  induction ts generalizing s with
  | nil => exact completesWithin_one hf hr (step_idle ht)
  | cons t rest ih =>
    by_cases hcore : t = .core
    · obtain ⟨k, u, hk, hu⟩ := completesWithin_one (s := s.pass rest) hf hr (step_core (hcore ▸ ht))
      exact ⟨k, u, by omega, hu⟩
    · obtain ⟨s', e, hf', hr', ht'⟩ := step_harmless (hs.busy_of_inflight hf) hr ht (h t (by simp)) hcore
      refine .succ e (ih ht' (everyStepKeepsTheInvariant s s' hs e) (hf'.trans hf) (hr'.trans hr) fun q hq => ?_)
      rw [parametersNeverChange s s' e]
      exact h q (by simp [hq])

/-- Settles O42: by induction on the turns that wait. -/
theorem commandInFlightCompletes : Obligations.CommandInFlightCompletes :=
  fun s _ hs hf hr h => completesWithin_of_harmless s.turns rfl hs hf hr h

end Sys2Proof.Machine
end

section
/-! SUPPORT. The gamma LUT (41_contrast_enhancer.md R104 to R106): its count is bounded by the k that R105 counts, and
R105's comparison of integers is the comparison of R104's real power with k + 1/2. -/

namespace Sys2Proof.Machine

/-! ### The k that R105 counts (R106) -/

/-- k is counted for the value i (R105). -/
def GammaCounts (g i k : ℕ) : Prop := (2 * k + 1) ^ g * 255 ^ 256 < i ^ 256 * 510 ^ g

section
variable {g i n k : ℕ}

/-- The LUT's entry is at least n if the k below n are counted (R105). -/
theorem le_gammaLut (hn : n ≤ 255) (h : ∀ k < n, GammaCounts g i k) : n ≤ gammaLut g i := by
  rw [gammaLut_eq_card]
  refine (Finset.card_range n).ge.trans (Finset.card_le_card fun k hk => ?_)
  have hkn : k < n := Finset.mem_range.1 hk
  exact Finset.mem_filter.2 ⟨Finset.mem_range.2 (hkn.trans_le hn), h k hkn⟩

/-- The LUT's entry is at most n if only k below n are counted (R105). -/
theorem gammaLut_le (h : ∀ k < 255, GammaCounts g i k → k < n) : gammaLut g i ≤ n := by
  rw [gammaLut_eq_card]
  refine (Finset.card_le_card fun k hk => ?_).trans (Finset.card_range n).le
  obtain ⟨hrange, hcounted⟩ := Finset.mem_filter.1 hk
  exact Finset.mem_range.2 (h k (Finset.mem_range.1 hrange) hcounted)

/-- From gamma 1.0 upward every k below i is counted: the factors past 256 are 2k + 1 on one side, 510 on the other. -/
theorem gammaCounts_of_lt (hg : 256 ≤ g) (hi : i ≤ 255) (hk : k < i) : GammaCounts g i k := by
  obtain ⟨d, rfl⟩ := Nat.exists_eq_add_of_le hg
  have hbase : (2 * k + 1) * 255 < i * 510 := by omega
  calc (2 * k + 1) ^ (256 + d) * 255 ^ 256 = ((2 * k + 1) * 255) ^ 256 * (2 * k + 1) ^ d := by
        rw [pow_add, mul_pow, mul_right_comm]
    _ < (i * 510) ^ 256 * 510 ^ d :=
        Nat.mul_lt_mul_of_lt_of_le (Nat.pow_lt_pow_left hbase (by omega)) (Nat.pow_le_pow_left (by omega) d)
          (pow_pos (by omega) d)
    _ = i ^ 256 * 510 ^ (256 + d) := by rw [pow_add, mul_pow, mul_assoc]

/-- Up to gamma 1.0 only k below i are counted: the factors that G leaves of 256 are i on one side, 255 on the other. -/
theorem lt_of_gammaCounts (hg : g ≤ 256) (hi : i ≤ 255) (h : GammaCounts g i k) : k < i := by
  by_contra hk
  obtain ⟨d, hd⟩ := Nat.exists_eq_add_of_le hg
  have hbase : i * 510 ≤ (2 * k + 1) * 255 := by omega
  refine Nat.not_le.2 h ?_
  calc i ^ 256 * 510 ^ g = (i * 510) ^ g * i ^ d := by rw [hd, pow_add, mul_pow, mul_right_comm]
    _ ≤ ((2 * k + 1) * 255) ^ g * 255 ^ d := Nat.mul_le_mul (Nat.pow_le_pow_left hbase g) (Nat.pow_le_pow_left hi d)
    _ = (2 * k + 1) ^ g * 255 ^ 256 := by rw [hd, pow_add, mul_pow, mul_assoc]

/-- From gamma 1.0 upward the LUT darkens no value (R106 (d)). -/
theorem le_gammaLut_of_brightening (hg : 256 ≤ g) (hi : i ≤ 255) : i ≤ gammaLut g i :=
  le_gammaLut hi fun _ => gammaCounts_of_lt hg hi

/-- Up to gamma 1.0 the LUT brightens no value (R106 (d)). -/
theorem gammaLut_le_of_darkening (hg : g ≤ 256) (hi : i ≤ 255) : gammaLut g i ≤ i :=
  gammaLut_le fun _ _ => lt_of_gammaCounts hg hi

/-- A greater value counts every k that a smaller one counts (R106 (b)). -/
theorem gammaLut_mono (g : ℕ) {i j : ℕ} (h : i ≤ j) : gammaLut g i ≤ gammaLut g j := by
  rw [gammaLut, gammaLut]
  refine List.countP_mono_left fun k _ hk => decide_eq_true ((of_decide_eq_true hk).trans_le ?_)
  exact Nat.mul_le_mul_right _ (Nat.pow_le_pow_left h 256)

/-- Value 0 counts no k (R106 (c)). -/
theorem gammaLut_zero (g : ℕ) : gammaLut g 0 = 0 := by
  refine Nat.le_zero.1 (gammaLut_le fun k _ h => ?_)
  rw [GammaCounts, zero_pow (by decide), zero_mul] at h
  exact absurd h (Nat.not_lt_zero _)

/-- Value 255 counts every k of the range (R106 (c)). -/
theorem gammaLut_last (hg : 1 ≤ g) : gammaLut g 255 = 255 := by
  refine le_antisymm (Nat.le_of_lt_succ (gammaLut_lt g 255)) (le_gammaLut le_rfl fun k hk => ?_)
  rw [GammaCounts, mul_comm]
  exact Nat.mul_lt_mul_of_pos_left (Nat.pow_lt_pow_left (by omega) (by omega)) (pow_pos (by decide) 256)

end

/-- Settles O20: at G = 256 the LUT neither darkens nor brightens a value. -/
theorem gammaLutProperties : Obligations.GammaLutProperties :=
  ⟨fun _ hi => le_antisymm (gammaLut_le_of_darkening le_rfl hi) (le_gammaLut_of_brightening le_rfl hi),
    fun g _ _ hij _ => gammaLut_mono g hij,
    fun g hg => ⟨gammaLut_zero g, gammaLut_last hg⟩,
    fun _ _ hg hi => le_gammaLut_of_brightening hg.le hi,
    fun _ _ _ hg hi => gammaLut_le_of_darkening hg.le hi⟩

/-! ### The real power (R104, R105) -/

/-- y = 255·(i/255)^(256/G) (R105). -/
noncomputable def gammaPower (g i : ℕ) : ℝ := 255 * ((i : ℝ) / 255) ^ ((256 : ℝ) / (g : ℝ))

section
variable {g i : ℕ}

theorem idealGammaLut_eq (g i : ℕ) : idealGammaLut g i = min 255 (max 0 (idealRne (gammaPower g i))) := rfl

theorem gammaPower_nonneg (g i : ℕ) : 0 ≤ gammaPower g i := by
  unfold gammaPower
  positivity

/-- (2y)^G = i^256·510^G / 255^256, without the division. -/
theorem gammaPower_pow (hg : 1 ≤ g) (i : ℕ) : (2 * gammaPower g i) ^ g * 255 ^ 256 = (i : ℝ) ^ 256 * 510 ^ g := by
  have hroot : (((i : ℝ) / 255) ^ ((256 : ℝ) / (g : ℝ))) ^ g = ((i : ℝ) / 255) ^ 256 := by
    have hg0 : (g : ℝ) ≠ 0 := by exact_mod_cast Nat.one_le_iff_ne_zero.1 hg
    rw [← Real.rpow_mul_natCast (by positivity), div_mul_cancel₀ _ hg0]
    exact_mod_cast Real.rpow_natCast ((i : ℝ) / 255) 256
  have h510 : 2 * gammaPower g i = 510 * ((i : ℝ) / 255) ^ ((256 : ℝ) / (g : ℝ)) := by
    rw [gammaPower]
    ring
  rw [h510, mul_pow, hroot, div_pow, mul_assoc, div_mul_cancel₀ _ (by positivity), mul_comm]

/-- R105's comparison: k is counted exactly if k + 1/2 < y. -/
theorem gammaCounts_iff (hg : 1 ≤ g) (i k : ℕ) : GammaCounts g i k ↔ (k : ℝ) < gammaPower g i - 1 / 2 := by
  have hpos : (0 : ℝ) < 255 ^ 256 := by positivity
  have hy : 0 ≤ 2 * gammaPower g i := mul_nonneg two_pos.le (gammaPower_nonneg g i)
  calc GammaCounts g i k
      ↔ (2 * (k : ℝ) + 1) ^ g * 255 ^ 256 < (i : ℝ) ^ 256 * 510 ^ g := by
        rw [GammaCounts]
        exact_mod_cast Iff.rfl
    _ ↔ (2 * (k : ℝ) + 1) ^ g < (2 * gammaPower g i) ^ g := by rw [← gammaPower_pow hg, mul_lt_mul_iff_left₀ hpos]
    _ ↔ 2 * (k : ℝ) + 1 < 2 * gammaPower g i :=
        pow_lt_pow_iff_left₀ (by positivity) hy (by omega)
    _ ↔ (k : ℝ) < gammaPower g i - 1 / 2 := by constructor <;> intro h <;> linarith

/-- y never lies halfway between two integers (R105): 2y = 2k + 1 would make an odd number equal to an even one. -/
theorem gammaPower_ne_half (hg : 1 ≤ g) (i k : ℕ) : gammaPower g i ≠ k + 1 / 2 := by
  intro h
  have hreal := gammaPower_pow hg i
  rw [h, mul_add, mul_one_div_cancel two_ne_zero] at hreal
  have heq : (2 * k + 1) ^ g * 255 ^ 256 = i ^ 256 * 510 ^ g := by exact_mod_cast hreal
  have hodd : Odd ((2 * k + 1) ^ g * 255 ^ 256) := (odd_two_mul_add_one k).pow.mul (Odd.pow (by decide))
  have heven : Even (i ^ 256 * 510 ^ g) := (Even.pow_of_ne_zero (by decide) (by omega)).mul_left _
  exact Nat.not_even_iff_odd.2 (heq ▸ hodd) heven

/-- The LUT's entry is the number of the k below y − 1/2 (R105). -/
theorem gammaLut_eq_ceil (hg : 1 ≤ g) (i : ℕ) : gammaLut g i = min 255 ⌈gammaPower g i - 1 / 2⌉₊ := by
  apply le_antisymm
  · exact gammaLut_le fun k hk h => lt_min hk (Nat.lt_ceil.2 ((gammaCounts_iff hg i k).1 h))
  · exact le_gammaLut (min_le_left _ _) fun k hk =>
      (gammaCounts_iff hg i k).2 (Nat.lt_ceil.1 (hk.trans_le (min_le_right _ _)))

end

/-- Away from a tie R12's rne rounds up from the half. -/
theorem idealRne_eq_ceil {x : ℝ} (h : x - ⌊x⌋ ≠ 1 / 2) : idealRne x = ⌈x - 1 / 2⌉ := by
  have hlo := Int.floor_le x
  have hhi := Int.lt_floor_add_one x
  unfold idealRne
  split_ifs with h1 h2
  · exact (Int.ceil_eq_iff.2 ⟨by linarith, by linarith⟩).symm
  · exact (Int.ceil_eq_iff.2 ⟨by push_cast; linarith, by push_cast; linarith⟩).symm
  all_goals exact absurd (le_antisymm (not_lt.1 h2) (not_lt.1 h1)) h

/-- Settles O19: y is no tie, so rounding it counts the k below y − 1/2, as the LUT does. -/
theorem gammaLutIsTheRoundedPower : Obligations.GammaLutIsTheRoundedPower := by
  intro g i hg _
  have hnotie : gammaPower g i - ⌊gammaPower g i⌋ ≠ 1 / 2 := fun h => by
    refine gammaPower_ne_half hg i ⌊gammaPower g i⌋₊ ?_
    rw [natCast_floor_eq_intCast_floor (gammaPower_nonneg g i)]
    linarith
  rw [idealGammaLut_eq, idealRne_eq_ceil hnotie, gammaLut_eq_ceil hg, ← Int.ceil_toNat]
  omega

end Sys2Proof.Machine
end

section
/-! SUPPORT. The corner cases of CSTRETCH and HISTEQ (41_contrast_enhancer.md R101, R108 to R111). -/

namespace Sys2Proof.Machine

/-! ### The stretch (R101) -/

section
variable {mn mx : ℕ}

/-- The remap of a channel that is not degenerate (R101). -/
theorem stretch_of_lt (h : mn < mx) (v : ℕ) : stretch mn mx v = (v - mn) * 255 / (mx - mn) := if_neg h.ne'

theorem stretch_min (h : mn < mx) : stretch mn mx mn = 0 := by
  rw [stretch_of_lt h, Nat.sub_self, zero_mul, Nat.zero_div]

theorem stretch_max (h : mn < mx) : stretch mn mx mx = 255 := by
  rw [stretch_of_lt h, Nat.mul_div_cancel_left _ (Nat.sub_pos_of_lt h)]

theorem stretch_mono (h : mn < mx) {a b : ℕ} (hab : a ≤ b) : stretch mn mx a ≤ stretch mn mx b := by
  rw [stretch_of_lt h, stretch_of_lt h]
  exact Nat.div_le_div_right (Nat.mul_le_mul_right 255 (Nat.sub_le_sub_right hab mn))

end

/-- Settles O21: the order gives the range, since the greatest value goes to 255. -/
theorem stretchSpansTheFullRange : Obligations.StretchSpansTheFullRange := fun _ _ h _ =>
  ⟨stretch_min h, stretch_max h, fun _ _ _ hab hb =>
    ⟨stretch_mono h hab, (stretch_mono h hb).trans (stretch_max h).le⟩⟩

/-! ### The equalization LUT (R107, R111) -/

/-- A multiple of the divisor is divided without rounding (R12). -/
theorem rneDiv_mul_cancel (k : ℕ) {b : ℕ} (hb : 0 < b) : rneDiv (k * b) b = k := by
  unfold rneDiv
  rw [Nat.mul_mod_left, Nat.mul_div_cancel _ hb, if_pos hb]

/-- Rounding keeps the order (R12): a smaller integer part rounds up to the greater one at most, and on equal integer
parts the remainders decide. -/
theorem rneDiv_mono {a a' : ℕ} (b : ℕ) (h : a ≤ a') : rneDiv a b ≤ rneDiv a' b := by
  rcases (Nat.div_le_div_right (c := b) h).lt_or_eq with hq | hq
  · calc rneDiv a b ≤ a / b + 1 := by
          unfold rneDiv
          split_ifs <;> omega
      _ ≤ a' / b := hq
      _ ≤ rneDiv a' b := by
          unfold rneDiv
          split_ifs <;> omega
  · have hr : a % b ≤ a' % b := by
      have e := Nat.div_add_mod a b
      have e' := Nat.div_add_mod a' b
      rw [hq] at e
      omega
    unfold rneDiv
    rw [hq]
    split_ifs <;> omega

/-- The minimum is no more than any value (R107). -/
theorem planeMin_le {ys : List ℕ} {x : ℕ} (hx : x ∈ ys) : planeMin ys ≤ x := by
  induction ys with
  | nil => cases hx
  | cons y ys ih =>
    rcases List.mem_cons.1 hx with rfl | hx
    · exact min_le_left _ _
    · exact (min_le_right _ _).trans (ih hx)

/-- The histogram up to a bound of all values counts them all (R107). -/
theorem cdf_eq_length {ys : List ℕ} {v : ℕ} (h : ∀ y ∈ ys, y ≤ v) : cdf ys v = ys.length := by
  rw [cdf_eq_countP, List.countP_eq_length]
  exact fun y hy => decide_eq_true (h y hy)

theorem cdf_mono (ys : List ℕ) {v v' : ℕ} (h : v ≤ v') : cdf ys v ≤ cdf ys v' := by
  rw [cdf_eq_countP, cdf_eq_countP]
  exact List.countP_mono_left fun y _ hy => decide_eq_true ((of_decide_eq_true hy).trans h)

/-- If each value up to v occurs m times, there are (v + 1)·m of them (R107). -/
theorem cdf_of_flat {ys : List ℕ} {m v : ℕ} (h : ∀ u ≤ v, ys.count u = m) : cdf ys v = (v + 1) * m := by
  have hmap : (List.range (v + 1)).map (hist ys) = List.replicate (v + 1) m := by
    rw [List.eq_replicate_iff]
    refine ⟨by simp, fun x hx => ?_⟩
    obtain ⟨u, hu, rfl⟩ := List.mem_map.1 hx
    exact h u (Nat.le_of_lt_succ (List.mem_range.1 hu))
  rw [cdf, hmap, List.sum_replicate, smul_eq_mul]

section
variable {ys : List ℕ} {v : ℕ}

/-- heqLUT is the identity where all values are the least one (R107). -/
theorem heqLut_of_constant (h : cdf ys (planeMin ys) = ys.length) (v : ℕ) : heqLut ys v = v := if_pos h

/-- heqLUT from the least value upward, where it is not the only one (R107). -/
theorem heqLut_of_le (h : cdf ys (planeMin ys) ≠ ys.length) (hv : planeMin ys ≤ v) :
    heqLut ys v =
      rneDiv ((cdf ys v - cdf ys (planeMin ys)) * 255) (ys.length - cdf ys (planeMin ys)) := by
  rw [heqLut]
  exact (if_neg h).trans (if_neg (Nat.not_lt.2 hv))

/-- The identity on a flat histogram (R111 (a)): the quotient is v·m·255 over 255·m. -/
theorem heqLut_of_flat {m : ℕ} (hm : 1 ≤ m) (h255 : ∀ y ∈ ys, y ≤ 255) (hflat : ∀ u ≤ 255, ys.count u = m)
    (hv : v ≤ 255) : heqLut ys v = v := by
  have hmem : 0 ∈ ys := List.count_pos_iff.1 (by rw [hflat 0 (by decide)]; exact hm)
  have hmin : planeMin ys = 0 := Nat.le_zero.1 (planeMin_le hmem)
  have hcdf : ∀ u ≤ 255, cdf ys u = (u + 1) * m := fun u hu => cdf_of_flat fun x hx => hflat x (hx.trans hu)
  have hcmin : cdf ys (planeMin ys) = m := by rw [hmin, hcdf 0 (by decide), zero_add, one_mul]
  have hlen : ys.length = 256 * m := by rw [← cdf_eq_length h255, hcdf 255 le_rfl]
  have hnum : ((v + 1) * m - m) * 255 = v * (256 * m - m) := by
    rw [← Nat.succ_eq_add_one, Nat.succ_mul, Nat.add_sub_cancel, Nat.succ_mul 255, Nat.add_sub_cancel, mul_assoc,
      mul_comm m]
  rw [heqLut_of_le (by omega) (by omega), hcmin, hlen, hcdf v hv, hnum, rneDiv_mul_cancel v (by omega)]

/-- The identity on a constant plane (R107). -/
theorem heqLut_of_forall_eq (hne : ys ≠ []) (hv : v ≤ 255) (h : ∀ z ∈ ys, z = v) : heqLut ys v = v := by
  obtain ⟨z, hz⟩ := List.exists_mem_of_ne_nil ys hne
  have hmin : planeMin ys = v := planeMin_eq (h z hz ▸ hz) (fun x hx => (h x hx).ge) hv
  exact heqLut_of_constant (cdf_eq_length fun y hy => hmin.symm ▸ (h y hy).le) v

/-- The LUT keeps the order of the plane's values (R111 (c)). -/
theorem heqLut_mono {a b : ℕ} (ha : a ∈ ys) (hab : a ≤ b) : heqLut ys a ≤ heqLut ys b := by
  have hmin : planeMin ys ≤ a := planeMin_le ha
  by_cases hconst : cdf ys (planeMin ys) = ys.length
  · rwa [heqLut_of_constant hconst, heqLut_of_constant hconst]
  · rw [heqLut_of_le hconst hmin, heqLut_of_le hconst (hmin.trans hab)]
    exact rneDiv_mono _ (Nat.mul_le_mul_right 255 (Nat.sub_le_sub_right (cdf_mono ys hab) _))

end

/-- Settles O22: the LUT's three shapes, each by its own lemma. -/
theorem equalizationLutProperties : Obligations.EqualizationLutProperties :=
  ⟨fun _ _ hm h255 hflat _ hv => heqLut_of_flat hm h255 hflat hv,
    fun _ _ hne hy h => heqLut_of_forall_eq hne hy h,
    fun _ _ _ _ ha _ hab => heqLut_mono ha hab⟩

/-! ### Gray pixels (R108 to R110, R113) -/

/-- The weights of the luma sum to 2^14 (R109). -/
theorem luma_gray (v : ℕ) : luma v v v = v := by
  unfold luma asr
  omega

theorem chromaR_gray (v : ℕ) : chromaR v v v = 128 := by
  rw [chromaR, luma_gray, sub_self]
  decide

theorem chromaB_gray (v : ℕ) : chromaB v v v = 128 := by
  rw [chromaB, luma_gray, sub_self]
  decide

/-- Neutral chroma adds nothing to the luma (R110). -/
theorem fromYCrCb_neutral {y : ℕ} (hy : y ≤ 255) (ch : ℕ) : fromYCrCb y 128 128 ch = y := by
  have hsat : sat8 y = y := by
    unfold sat8
    omega
  have hzero : asr 8192 14 = 0 := by decide
  unfold fromYCrCb
  split_ifs
  · simpa [blueOf, hzero] using hsat
  · simpa [greenOf, hzero] using hsat
  · simpa [redOf, hzero] using hsat

/-- Settles O23: the machine's formulas are the rules', and a gray pixel's chroma is neutral. -/
theorem grayPixelsStayGray : Obligations.GrayPixelsStayGray :=
  ⟨fun b g r _ _ _ => ⟨luma_cast b g r, luma_cast b g r, chromaR_cast b g r, chromaB_cast b g r⟩,
    fun y cr cb ch _ _ _ _ => fromYCrCb_cast y cr cb ch,
    fun v _ => ⟨luma_gray v, luma_gray v, chromaR_gray v, chromaB_gray v⟩,
    fun _ ch hy _ => fromYCrCb_neutral hy ch⟩

end Sys2Proof.Machine
end

section
/-! SUPPORT. MEDIAN is monotone (42_restoration_filter.md R128 (e)): raised values leave at least 13 of the 25 at or above
the old median. -/

namespace Sys2Proof.Machine

/-- Raising values lowers no median: at least 13 of the 25 are at or above the old median, and they stay there. -/
theorem median25_map_mono {α : Type} {l : List α} {f g : α → Nat} (hl : l.length = 25) (h : ∀ a ∈ l, f a ≤ g a) :
    median25 (l.map f) ≤ median25 (l.map g) := by
  by_contra! hlt
  have hbelow : l.countP (fun a => f a < median25 (l.map f)) ≤ 12 := by
    simpa [List.countP_map, Function.comp_def] using countP_lt_median25_le (l := l.map f) (by simpa using hl)
  have habove : l.countP (fun a => median25 (l.map g) < g a) ≤ 12 := by
    simpa [List.countP_map, Function.comp_def] using countP_median25_lt_le (l := l.map g) (by simpa using hl)
  have hstay : l.countP (fun a => ¬ f a < median25 (l.map f)) ≤ l.countP (fun a => median25 (l.map g) < g a) :=
    List.countP_mono_left fun a ha hf => by
      have hfa : median25 (l.map f) ≤ f a := by simpa using hf
      simpa using hlt.trans_le (hfa.trans (h a ha))
  have hsplit := List.length_eq_countP_add_countP (fun a => decide (f a < median25 (l.map f))) (l := l)
  simp only [decide_eq_true_eq] at hsplit
  omega

/-- Raising pixels raises every window's median (R126). -/
theorem median25_window25_mono {i j : SrcImage} (hh : i.h = j.h) (hw : i.w = j.w)
    (hpix : ∀ r c ch, i.pix r c ch ≤ j.pix r c ch) (r c ch : Nat) :
    median25 (window25 i r c ch) ≤ median25 (window25 j r c ch) := by
  rw [window25_eq_map, window25_eq_map, hh, hw]
  exact median25_map_mono rfl fun _ _ => hpix _ _ _

/-- Layouts of one shape compare place by place (R50). -/
theorem layout_getD_mono {f g : Nat → Nat → Nat → Nat} (hfg : ∀ r c ch, f r c ch ≤ g r c ch) (h w c k : Nat) :
    (layout h w c f).getD k 0 ≤ (layout h w c g).getD k 0 := by
  by_cases hk : k < h * w * c
  · rw [layout, layout, getD_map_range _ _ hk, getD_map_range _ _ hk]
    exact hfg _ _ _
  · rw [List.getD_eq_default _ _ (by simpa using hk)]
    exact Nat.zero_le _

/-- Settles O24: each window's median is monotone. -/
theorem medianIsMonotone : Obligations.MedianIsMonotone := by
  intro i j hh hw hc hpx
  have hpix : ∀ r c ch, i.pix r c ch ≤ j.pix r c ch := fun r c ch => by
    rw [SrcImage.pix, SrcImage.pix, hw, hc]
    exact hpx _
  rw [resultMedian, resultMedian, hh, hw, hc]
  exact layout_getD_mono (median25_window25_mono hh hw hpix) _ _ _

end Sys2Proof.Machine
end

section
/-! SUPPORT. The arithmetic of Cyclotomic.lean (log entry 10): sums, products and conjugates of combinations have the value
of the complex operation, and so have those of quotients. -/

namespace Sys2Proof.Machine

/-- A list sum over a range is the finite sum. -/
theorem sum_map_range {M : Type} [AddCommMonoid M] (f : ℕ → M) (n : ℕ) :
    ((List.range n).map f).sum = ∑ i ∈ Finset.range n, f i := rfl

/-! ### Combinations of the powers of ζ -/

theorem zeta_pow_self (n : ℕ) : zeta n ^ n = 1 := by
  rcases Nat.eq_zero_or_pos n with rfl | hn
  · rfl
  · exact (zeta_isPrimitiveRoot hn).pow_eq_one

theorem zeta_ne_zero (n : ℕ) : zeta n ≠ 0 := Complex.exp_ne_zero _

/-- ζ is on the unit circle, so its conjugate is its inverse. -/
theorem conj_zeta (n : ℕ) : (starRingEnd ℂ) (zeta n) = (zeta n)⁻¹ := by
  rw [zeta, cis, ← Complex.exp_conj, ← Complex.exp_neg, map_mul, Complex.conj_ofReal, Complex.conj_I, mul_neg]

section
variable {n : ℕ}

theorem Cyc.valueAt_tabulate (n : ℕ) (f : ℕ → ℤ) (ω : ℂ) :
    Cyc.valueAt n (Cyc.tabulate n f) ω = ∑ j ∈ Finset.range n, (f j : ℂ) * ω ^ j :=
  Finset.sum_congr rfl fun j hj => by rw [Cyc.coef_tabulate, if_pos (Finset.mem_range.1 hj)]

@[simp] theorem Cyc.value_const (hn : 0 < n) (k : ℤ) : Cyc.value n (Cyc.const n k) = k := by
  rw [Cyc.value_eq_valueAt, Cyc.const, Cyc.valueAt_tabulate, Finset.sum_eq_single_of_mem 0 (Finset.mem_range.2 hn)]
  · simp
  · intro j _ hj
    simp [hj]

@[simp] theorem Cyc.value_add (n : ℕ) (a b : Cyc) :
    Cyc.value n (Cyc.add n a b) = Cyc.value n a + Cyc.value n b := by
  simp only [Cyc.value_eq_valueAt, Cyc.add, Cyc.valueAt_tabulate, Int.cast_add, add_mul, Finset.sum_add_distrib]
  rfl

@[simp] theorem Cyc.value_sub (n : ℕ) (a b : Cyc) :
    Cyc.value n (Cyc.sub n a b) = Cyc.value n a - Cyc.value n b := by
  simp only [Cyc.value_eq_valueAt, Cyc.valueAt_sub]

@[simp] theorem Cyc.sub_length (n : ℕ) (a b : Cyc) : (Cyc.sub n a b).length = n := Cyc.tabulate_length _ _

@[simp] theorem Cyc.value_scale (n : ℕ) (k : ℤ) (a : Cyc) :
    Cyc.value n (Cyc.scale n k a) = k * Cyc.value n a := by
  simp only [Cyc.value_eq_valueAt, Cyc.scale, Cyc.valueAt_tabulate, Int.cast_mul, mul_assoc, ← Finset.mul_sum]
  rfl

@[simp] theorem Cyc.value_rotate (n e : ℕ) (a : Cyc) :
    Cyc.value n (Cyc.rotate n e a) = zeta n ^ e * Cyc.value n a := by
  simp only [Cyc.value_eq_valueAt, Cyc.valueAt_rotate (zeta_pow_self n)]

/-- The product is the sum of the rotations of `b` by ζ^i, each times the i-th coefficient of `a`. -/
@[simp] theorem Cyc.value_mul (n : ℕ) (a b : Cyc) :
    Cyc.value n (Cyc.mul n a b) = Cyc.value n a * Cyc.value n b := by
  have hrow : ∀ i ∈ Finset.range n, ∑ j ∈ Finset.range n, (Cyc.coef b ((j + (n - i)) % n) : ℂ) * zeta n ^ j =
      zeta n ^ i * Cyc.valueAt n b (zeta n) := fun i hi => by
    rw [← Cyc.valueAt_rotate (zeta_pow_self n), Cyc.rotate, Cyc.valueAt_tabulate,
      Nat.mod_eq_of_lt (Finset.mem_range.1 hi)]
  calc Cyc.value n (Cyc.mul n a b)
      = ∑ j ∈ Finset.range n, ∑ i ∈ Finset.range n,
          (Cyc.coef a i : ℂ) * ((Cyc.coef b ((j + (n - i)) % n) : ℂ) * zeta n ^ j) := by
        rw [Cyc.value_eq_valueAt, Cyc.mul, Cyc.valueAt_tabulate]
        simp only [sum_map_range, Int.cast_sum, Int.cast_mul, Finset.sum_mul, mul_assoc]
    _ = ∑ i ∈ Finset.range n, (Cyc.coef a i : ℂ) * (zeta n ^ i * Cyc.valueAt n b (zeta n)) := by
        rw [Finset.sum_comm]
        exact Finset.sum_congr rfl fun i hi => by rw [← Finset.mul_sum, hrow i hi]
    _ = Cyc.value n a * Cyc.value n b := by
        simp only [Cyc.value_eq_valueAt, ← mul_assoc, ← Finset.sum_mul]
        rfl

/-- The power at which the exponent `k` turns back to 0. -/
theorem zeta_pow_back (hn : 0 < n) (k : ℕ) : zeta n ^ ((n - k % n) % n) = (zeta n ^ k)⁻¹ := by
  refine eq_inv_of_mul_eq_one_left ?_
  rw [← pow_eq_pow_mod _ (zeta_pow_self n), pow_eq_pow_mod k (zeta_pow_self n), ← pow_add,
    Nat.sub_add_cancel (Nat.mod_lt k hn).le, zeta_pow_self]

@[simp] theorem Cyc.value_conj (n : ℕ) (a : Cyc) :
    Cyc.value n (Cyc.conj n a) = (starRingEnd ℂ) (Cyc.value n a) := by
  rw [Cyc.value_eq_valueAt, Cyc.value_eq_valueAt, Cyc.conj, Cyc.valueAt_tabulate, Cyc.valueAt, map_sum]
  have hinv : ∀ j < n, (n - (n - j) % n) % n = j := fun j hj => by
    rcases Nat.eq_zero_or_pos j with rfl | h0
    · simp
    · rw [Nat.mod_eq_of_lt (by omega : n - j < n), Nat.sub_sub_self hj.le, Nat.mod_eq_of_lt hj]
  have hmem : ∀ j ∈ Finset.range n, (n - j) % n ∈ Finset.range n := fun j hj =>
    Finset.mem_range.2 (Nat.mod_lt _ (Nat.zero_lt_of_lt (Finset.mem_range.1 hj)))
  refine Finset.sum_nbij' (fun j => (n - j) % n) (fun j => (n - j) % n) hmem hmem
    (fun j hj => hinv j (Finset.mem_range.1 hj)) (fun j hj => hinv j (Finset.mem_range.1 hj)) fun j hj => ?_
  have hj' := Finset.mem_range.1 hj
  have hback := zeta_pow_back (Nat.zero_lt_of_lt hj') ((n - j) % n)
  rw [Nat.mod_mod, hinv j hj'] at hback
  rw [map_mul, map_pow, conj_zeta, map_intCast, inv_pow, hback]

end

/-! ### Quotients -/

/-- The quotient is defined and has the value `z`. -/
structure Frac.Denotes (n : ℕ) (x : Frac) (z : ℂ) : Prop where
  den_ne : Cyc.value n x.den ≠ 0
  num_eq : Cyc.value n x.num = z * Cyc.value n x.den

namespace Frac.Denotes

variable {n : ℕ} {x y : Frac} {z t : ℂ}

/-- The value as a quotient of values. -/
theorem quotient (hx : Frac.Denotes n x z) :
    Cyc.value n x.den ≠ 0 ∧ Cyc.value n x.num / Cyc.value n x.den = z :=
  ⟨hx.den_ne, (div_eq_iff hx.den_ne).2 hx.num_eq⟩

theorem ofCyc (hn : 0 < n) (a : Cyc) : Frac.Denotes n (Frac.ofCyc n a) (Cyc.value n a) where
  den_ne := by simp [Frac.ofCyc, hn]
  num_eq := by simp [Frac.ofCyc, hn]

theorem ratio (hn : 0 < n) (a : ℤ) {b : ℤ} (hb : b ≠ 0) : Frac.Denotes n (Frac.ratio n a b) (a / b) where
  den_ne := by simpa [Frac.ratio, hn] using hb
  num_eq := by
    have hb' : (b : ℂ) ≠ 0 := Int.cast_ne_zero.2 hb
    simp [Frac.ratio, hn, hb']

theorem add (hx : Frac.Denotes n x z) (hy : Frac.Denotes n y t) : Frac.Denotes n (Frac.add n x y) (z + t) := by
  rw [Frac.add]
  split
  · rename_i heq
    exact ⟨hx.den_ne, by rw [Cyc.value_add, hx.num_eq, hy.num_eq, ← heq]; ring⟩
  · refine ⟨?_, ?_⟩
    · rw [Cyc.value_mul]
      exact mul_ne_zero hx.den_ne hy.den_ne
    · rw [Cyc.value_add, Cyc.value_mul, Cyc.value_mul, Cyc.value_mul, hx.num_eq, hy.num_eq]
      ring

theorem mul (hx : Frac.Denotes n x z) (hy : Frac.Denotes n y t) : Frac.Denotes n (Frac.mul n x y) (z * t) where
  den_ne := by simpa [Frac.mul] using ⟨hx.den_ne, hy.den_ne⟩
  num_eq := by
    simp only [Frac.mul, Cyc.value_mul, hx.num_eq, hy.num_eq]
    ring

theorem div (hx : Frac.Denotes n x z) (hy : Frac.Denotes n y t) (ht : t ≠ 0) :
    Frac.Denotes n (Frac.div n x y) (z / t) where
  den_ne := by simpa [Frac.div, hy.num_eq] using ⟨hx.den_ne, ht, hy.den_ne⟩
  num_eq := by
    simp only [Frac.div, Cyc.value_mul, hx.num_eq, hy.num_eq]
    field_simp

theorem conj (hx : Frac.Denotes n x z) : Frac.Denotes n (Frac.conj n x) ((starRingEnd ℂ) z) where
  den_ne := by simpa [Frac.conj] using hx.den_ne
  num_eq := by simp [Frac.conj, hx.num_eq]

theorem rotate (hx : Frac.Denotes n x z) (e : ℕ) : Frac.Denotes n (Frac.rotate n e x) (z * zeta n ^ e) where
  den_ne := hx.den_ne
  num_eq := by
    simp only [Frac.rotate, Cyc.value_rotate, hx.num_eq]
    ring

theorem foldl_add {α : Type} {l : List α} {f : α → Frac} {v : α → ℂ} (hl : ∀ a ∈ l, Frac.Denotes n (f a) (v a))
    (hx : Frac.Denotes n x z) : Frac.Denotes n ((l.map f).foldl (Frac.add n) x) (z + (l.map v).sum) := by
  induction l generalizing x z with
  | nil => simpa using hx
  | cons a l ih =>
    obtain ⟨ha, hl⟩ := List.forall_mem_cons.1 hl
    simpa [add_assoc] using ih hl (hx.add ha)

theorem sum {α : Type} {l : List α} {f : α → Frac} {v : α → ℂ} (hn : 0 < n)
    (hl : ∀ a ∈ l, Frac.Denotes n (f a) (v a)) : Frac.Denotes n (Frac.sum n (l.map f)) (l.map v).sum := by
  simpa [Frac.sum] using foldl_add hl (ratio hn 0 one_ne_zero)

/-- The magnitude test is exact (R12): the number whose sign it asks for is b²·|num|² − a²·|den|². -/
theorem reaches_iff (hn : 0 < n) (hx : Frac.Denotes n x z) (a : ℤ) {b : ℕ} (hb : 0 < b) :
    Frac.reaches n x a b = true ↔ (a : ℝ) / b ≤ ‖z‖ := by
  have hb' : (0 : ℝ) < b := Nat.cast_pos.2 hb
  rw [Frac.reaches, Bool.or_eq_true, decide_eq_true_eq, div_le_iff₀ hb']
  rcases le_or_gt a 0 with ha | ha
  · have hle : (a : ℝ) ≤ ‖z‖ * b := (Int.cast_nonpos.2 ha).trans (by positivity)
    simp [ha, hle]
  have hval : Cyc.value n (Cyc.sub n (Cyc.scale n ((b : ℤ) ^ 2) (Cyc.mul n x.num (Cyc.conj n x.num)))
      (Cyc.scale n (a ^ 2) (Cyc.mul n x.den (Cyc.conj n x.den)))) =
      (((‖z‖ * b) ^ 2 - (a : ℝ) ^ 2) * ‖Cyc.value n x.den‖ ^ 2 : ℝ) := by
    simp only [Cyc.value_sub, Cyc.value_scale, Cyc.value_mul, Cyc.value_conj, Complex.mul_conj', hx.num_eq, norm_mul]
    push_cast
    ring
  have hden : 0 < ‖Cyc.value n x.den‖ ^ 2 := pow_pos (norm_pos_iff.2 hx.den_ne) 2
  have ha' : (0 : ℝ) < a := Int.cast_pos.2 ha
  rw [or_iff_right (not_le.2 ha),
    cyclotomicSignIsExact n _ hn (Cyc.sub_length _ _ _) (by rw [hval]; exact Complex.ofReal_im _), hval,
    Complex.ofReal_re, mul_nonneg_iff_of_pos_right hden, sub_nonneg, sq_le_sq₀ ha'.le (by positivity)]

end Frac.Denotes

end Sys2Proof.Machine
end

section
/-! SUPPORT. The transforms (42_restoration_filter.md R115, R116): the powers of ζ that the engines use are the rules'
waves, and the waves over one period are orthogonal. -/

namespace Sys2Proof.Machine

/-! ### Waves -/

/-- e^{2πi·(u·r/H + v·c/W)}, as powers of the two roots of unity (R116). -/
noncomputable def wave (h w u v r c : ℕ) : ℂ := zeta h ^ (u * r) * zeta w ^ (v * c)

theorem zeta_pow (n k : ℕ) : zeta n ^ k = cis (2 * Real.pi * k / n) := by
  rw [zeta, cis, cis, ← Complex.exp_nat_mul]
  push_cast
  congr 1
  ring

theorem cis_add (θ φ : ℝ) : cis (θ + φ) = cis θ * cis φ := by
  rw [cis, cis, cis, ← Complex.exp_add, Complex.ofReal_add, add_mul]

theorem cis_neg (θ : ℝ) : cis (-θ) = (cis θ)⁻¹ := by
  rw [cis, cis, ← Complex.exp_neg, Complex.ofReal_neg, neg_mul]

theorem cis_eq_wave (h w u v r c : ℕ) :
    cis (2 * Real.pi * ((u * r : ℝ) / h + (v * c : ℝ) / w)) = wave h w u v r c := by
  rw [wave, zeta_pow, zeta_pow, ← cis_add]
  push_cast
  congr 1
  ring

/-- The forward transform by waves, over the places of the plane (R115). -/
theorem idealDft2_eq_sum_wave (h w : ℕ) (g : ℕ → ℕ → ℂ) (u v : ℕ) :
    idealDft2 h w g u v =
      ∑ q ∈ Finset.range h ×ˢ Finset.range w, g q.1 q.2 * (wave h w u v q.1 q.2)⁻¹ := by
  simp only [idealDft2, cis_neg, cis_eq_wave, Finset.sum_product]

/-- The inverse transform by waves, over the places of the spectrum (R116). -/
theorem idealIdft2_eq_sum_wave (h w : ℕ) (spec : ℕ → ℕ → ℂ) (r c : ℕ) :
    idealIdft2 h w spec r c =
      (1 / ((h : ℂ) * w)) * ∑ p ∈ Finset.range h ×ˢ Finset.range w, spec p.1 p.2 * wave h w p.1 p.2 r c := by
  simp only [idealIdft2, cis_eq_wave, Finset.sum_product]

theorem rootOrder_pos {h w : ℕ} (hh : 0 < h) (hw : 0 < w) : 0 < rootOrder h w := Nat.lcm_pos hh hw

/-- A power of ζ is the root of unity of a smaller order. -/
theorem zeta_pow_div {n m : ℕ} (hn : 0 < n) (h : m ∣ n) : zeta n ^ (n / m) = zeta m := by
  have hn' : (n : ℝ) ≠ 0 := Nat.cast_ne_zero.2 hn.ne'
  rw [zeta_pow, zeta, Nat.cast_div_charZero h]
  congr 1
  field_simp

/-- The machine's exponents give the rules' waves. -/
theorem zeta_pow_twiddle {h w : ℕ} (hh : 0 < h) (hw : 0 < w) (u v r c : ℕ) :
    zeta (rootOrder h w) ^ twiddle h w u v r c = wave h w u v r c := by
  have hn := rootOrder_pos hh hw
  rw [twiddle, pow_add, mul_comm (u * r), mul_comm (v * c), pow_mul _ _ (u * r), pow_mul _ _ (v * c),
    zeta_pow_div hn (Nat.dvd_lcm_left h w), zeta_pow_div hn (Nat.dvd_lcm_right h w), wave]

/-! ### The forward transform -/

/-- The one coefficient that collects a pixel is that of its own power of ζ. -/
theorem sum_ite_zeta_pow {n : ℕ} (hn : 0 < n) (t : ℕ) (x : ℂ) :
    ∑ j ∈ Finset.range n, (if (t + j) % n = 0 then x else 0) * zeta n ^ j = x * (zeta n ^ t)⁻¹ := by
  have hplace : ∀ j < n, (t + j) % n = 0 ↔ j = (n - t % n) % n := fun j hj => by
    have ht := Nat.mod_lt t hn
    rw [Nat.add_mod, Nat.mod_eq_of_lt hj]
    rcases Nat.eq_zero_or_pos (t % n) with h0 | h0
    · rw [h0, Nat.sub_zero, Nat.mod_self, Nat.zero_add, Nat.mod_eq_of_lt hj]
    · rw [Nat.mod_eq_of_lt (by omega : n - t % n < n), ← Nat.dvd_iff_mod_eq_zero]
      constructor
      · intro hdvd
        have := Nat.eq_of_dvd_of_lt_two_mul (by omega) hdvd (by omega)
        omega
      · rintro rfl
        rw [Nat.add_sub_cancel' ht.le]
  have hmem : (n - t % n) % n ∈ Finset.range n := Finset.mem_range.2 (Nat.mod_lt _ hn)
  rw [Finset.sum_eq_single_of_mem _ hmem fun j hj hne => ?_, if_pos ((hplace _ (Finset.mem_range.1 hmem)).2 rfl),
    zeta_pow_back hn]
  rw [if_neg (mt (hplace j (Finset.mem_range.1 hj)).1 hne), zero_mul]

/-- The forward engine computes the rule's sum (R115). -/
theorem value_dft2 {h w : ℕ} (hh : 0 < h) (hw : 0 < w) (g : List (List ℕ)) (u v : ℕ) :
    Cyc.value (rootOrder h w) (dft2 h w g u v) = idealDft2 h w (fun r c => (planeAt g r c : ℂ)) u v := by
  have hpixel : ∀ r c, ∑ j ∈ Finset.range (rootOrder h w),
      (if (twiddle h w u v r c + j) % rootOrder h w = 0 then (planeAt g r c : ℂ) else 0) * zeta (rootOrder h w) ^ j =
        planeAt g r c * (wave h w u v r c)⁻¹ := fun r c => by
    rw [sum_ite_zeta_pow (rootOrder_pos hh hw), zeta_pow_twiddle hh hw]
  rw [Cyc.value_eq_valueAt, dft2, Cyc.valueAt_tabulate, idealDft2_eq_sum_wave, Finset.sum_product]
  simp only [sum_map_range, Int.cast_sum, Int.cast_ite, Int.cast_natCast, Int.cast_zero, Finset.sum_mul]
  rw [Finset.sum_comm]
  refine Finset.sum_congr rfl fun r _ => ?_
  rw [Finset.sum_comm]
  exact Finset.sum_congr rfl fun c _ => hpixel r c

/-- Settles O27: the coefficient of each power of ζ collects the pixels of that wave. -/
theorem forwardTransformIsTheRuleSum : Obligations.ForwardTransformIsTheRuleSum :=
  fun _ _ u v g hh hw => value_dft2 hh hw g u v

/-! ### The inverse transform -/

/-- A table of terms over rows and columns, as one list over the places. -/
theorem flatMap_map_range {α : Type} (f : ℕ → ℕ → α) (h w : ℕ) :
    ((List.range h).flatMap fun u => (List.range w).map (f u)) =
      (List.range h ×ˢ List.range w).map fun p => f p.1 p.2 := by
  simp [SProd.sprod, List.product, List.map_flatMap, Function.comp_def]

/-- A list sum over the places is the finite sum. -/
theorem sum_map_places (f : ℕ × ℕ → ℂ) (h w : ℕ) :
    ((List.range h ×ˢ List.range w).map f).sum = ∑ p ∈ Finset.range h ×ˢ Finset.range w, f p := by
  rw [← flatMap_map_range fun u v => f (u, v), List.flatMap_def, List.sum_flatten, List.map_map, sum_map_range,
    Finset.sum_product]
  rfl

/-- The inverse engine computes the rule's sum of the numbers that its spectrum denotes (R116). -/
theorem idft2_denotes {h w : ℕ} (hh : 0 < h) (hw : 0 < w) {f : ℕ → ℕ → Frac} {spec : ℕ → ℕ → ℂ}
    (hf : ∀ u v, Frac.Denotes (rootOrder h w) (f u v) (spec u v)) (r c : ℕ) :
    Frac.Denotes (rootOrder h w) (idft2 h w ((List.range h).map fun u => (List.range w).map (f u)) r c)
      (idealIdft2 h w spec r c) := by
  have hn := rootOrder_pos hh hw
  have hterms : ((List.range h).flatMap fun u => (List.range w).map fun v =>
        Frac.rotate (rootOrder h w) (twiddle h w u v r c)
          ((((List.range h).map fun u => (List.range w).map (f u)).getD u []).getD v (Frac.ratio (rootOrder h w) 0 1))) =
      (List.range h ×ˢ List.range w).map fun p =>
        Frac.rotate (rootOrder h w) (twiddle h w p.1 p.2 r c) (f p.1 p.2) := by
    rw [← flatMap_map_range fun u v => Frac.rotate (rootOrder h w) (twiddle h w u v r c) (f u v)]
    refine List.flatMap_congr fun u hu => List.map_congr_left fun v hv => ?_
    rw [getD_map_range _ _ (List.mem_range.1 hu), getD_map_range _ _ (List.mem_range.1 hv)]
  have hsum := Frac.Denotes.sum hn (l := List.range h ×ˢ List.range w) fun p _ =>
    (hf p.1 p.2).rotate (twiddle h w p.1 p.2 r c)
  have hscale := Frac.Denotes.ratio hn 1 (b := ((h * w : ℕ) : ℤ)) (by positivity)
  have hprod := hscale.mul hsum
  simp only [zeta_pow_twiddle hh hw, sum_map_places, Int.cast_one, Int.cast_natCast] at hprod
  rw [idft2, hterms, idealIdft2_eq_sum_wave, ← Nat.cast_mul]
  exact hprod

/-- The waves of two places on one axis are orthogonal. -/
theorem sum_zeta_pow_mul_inv {n r r' : ℕ} (hr : r < n) (hr' : r' < n) :
    ∑ u ∈ Finset.range n, zeta n ^ (u * r) * (zeta n ^ (u * r'))⁻¹ = if r' = r then (n : ℂ) else 0 := by
  have hterm : ∀ u, zeta n ^ (u * r) * (zeta n ^ (u * r'))⁻¹ = (zeta n ^ r * (zeta n ^ r')⁻¹) ^ u := fun u => by
    rw [mul_pow, inv_pow, ← pow_mul, ← pow_mul, mul_comm u, mul_comm u]
  simp only [hterm]
  split_ifs with heq
  · rw [heq, mul_inv_cancel₀ (pow_ne_zero r (zeta_ne_zero n))]
    simp
  · have hne : zeta n ^ r * (zeta n ^ r')⁻¹ ≠ 1 := fun h1 => by
      rw [mul_inv_eq_one₀ (pow_ne_zero _ (zeta_ne_zero n))] at h1
      exact heq ((zeta_isPrimitiveRoot (Nat.zero_lt_of_lt hr)).pow_inj hr' hr h1.symm)
    have hpow : (zeta n ^ r * (zeta n ^ r')⁻¹) ^ n = 1 := by
      rw [← hterm, pow_mul, pow_mul, zeta_pow_self, one_pow, one_pow, inv_one, mul_one]
    rw [geom_sum_eq hne, hpow, sub_self, zero_div]

/-- The waves of two places of the plane are orthogonal. -/
theorem sum_wave_mul_inv {h w r c : ℕ} {q : ℕ × ℕ} (hr : r < h) (hc : c < w) (hq : q ∈ Finset.range h ×ˢ Finset.range w) :
    ∑ p ∈ Finset.range h ×ˢ Finset.range w, wave h w p.1 p.2 r c * (wave h w p.1 p.2 q.1 q.2)⁻¹ =
      if q = (r, c) then (h : ℂ) * w else 0 := by
  obtain ⟨hq1, hq2⟩ := Finset.mem_product.1 hq
  calc ∑ p ∈ Finset.range h ×ˢ Finset.range w, wave h w p.1 p.2 r c * (wave h w p.1 p.2 q.1 q.2)⁻¹
      = (∑ u ∈ Finset.range h, zeta h ^ (u * r) * (zeta h ^ (u * q.1))⁻¹) *
          ∑ v ∈ Finset.range w, zeta w ^ (v * c) * (zeta w ^ (v * q.2))⁻¹ := by
        rw [Finset.sum_mul_sum, Finset.sum_product]
        simp only [wave, mul_inv, mul_mul_mul_comm]
    _ = if q = (r, c) then (h : ℂ) * w else 0 := by
        rw [sum_zeta_pow_mul_inv hr (Finset.mem_range.1 hq1), sum_zeta_pow_mul_inv hc (Finset.mem_range.1 hq2),
          ite_zero_mul_ite_zero]
        simp only [Prod.ext_iff]

/-- The inverse transform of the forward transform is the plane (R116). -/
theorem idealIdft2_idealDft2 {h w r c : ℕ} (g : ℕ → ℕ → ℂ) (hr : r < h) (hc : c < w) :
    idealIdft2 h w (idealDft2 h w g) r c = g r c := by
  have hmem : (r, c) ∈ Finset.range h ×ˢ Finset.range w :=
    Finset.mem_product.2 ⟨Finset.mem_range.2 hr, Finset.mem_range.2 hc⟩
  have hh : (h : ℂ) ≠ 0 := Nat.cast_ne_zero.2 (Nat.ne_zero_of_lt hr)
  have hw : (w : ℂ) ≠ 0 := Nat.cast_ne_zero.2 (Nat.ne_zero_of_lt hc)
  have hsum : ∑ p ∈ Finset.range h ×ˢ Finset.range w, idealDft2 h w g p.1 p.2 * wave h w p.1 p.2 r c =
      g r c * (h * w) := by
    calc ∑ p ∈ Finset.range h ×ˢ Finset.range w, idealDft2 h w g p.1 p.2 * wave h w p.1 p.2 r c
        = ∑ q ∈ Finset.range h ×ˢ Finset.range w, g q.1 q.2 *
            ∑ p ∈ Finset.range h ×ˢ Finset.range w, wave h w p.1 p.2 r c * (wave h w p.1 p.2 q.1 q.2)⁻¹ := by
          simp only [idealDft2_eq_sum_wave, Finset.sum_mul, Finset.mul_sum]
          rw [Finset.sum_comm]
          exact Finset.sum_congr rfl fun q _ => Finset.sum_congr rfl fun p _ => by ring
      _ = ∑ q ∈ Finset.range h ×ˢ Finset.range w, g q.1 q.2 * if q = (r, c) then (h : ℂ) * w else 0 :=
          Finset.sum_congr rfl fun q hq => by rw [sum_wave_mul_inv hr hc hq]
      _ = g r c * (h * w) := by
          rw [Finset.sum_eq_single_of_mem _ hmem fun q _ hne => by rw [if_neg hne, mul_zero], if_pos rfl]
  rw [idealIdft2_eq_sum_wave, hsum]
  field_simp

/-- Settles O28: the two engines compute the rules' sums, and the waves are orthogonal. -/
theorem inverseTransformRestoresThePlane : Obligations.InverseTransformRestoresThePlane := by
  intro h w r c g hr hc
  have hh := Nat.zero_lt_of_lt hr
  have hw := Nat.zero_lt_of_lt hc
  have hy := idft2_denotes hh hw (fun u v => Frac.Denotes.ofCyc (rootOrder_pos hh hw) (dft2 h w g u v)) r c
  simp only [value_dft2 hh hw] at hy
  rw [idealIdft2_idealDft2 _ hr hc] at hy
  exact hy.quotient

end Sys2Proof.Machine
end

section
/-! SUPPORT. The masks (42_restoration_filter.md R118 to R121): the Butterworth weight and the Wiener factor as quotients. -/

namespace Sys2Proof.Machine

/-- The machine's squared distance is the rule's (R118). -/
theorem dist2_cast (h w p q : ℕ) : (dist2 h w p q : ℝ) = idealDist2 h w p q := by
  simp only [dist2, idealDist2, Nat.cast_add, Nat.cast_pow, Nat.cast_natAbs, Int.cast_abs, sq_abs, Int.cast_sub,
    Int.cast_natCast]

/-- The rule's weight with the root taken out (R118). -/
theorem idealMask_eq (h w ord p q : ℕ) {cut : ℕ} (hcut : 1 ≤ cut) : idealMask h w cut ord p q =
    (cut : ℝ) ^ (2 * ord) / ((cut : ℝ) ^ (2 * ord) + (dist2 h w p q : ℝ) ^ ord) := by
  have hcut' : (cut : ℝ) ^ (2 * ord) ≠ 0 := pow_ne_zero _ (Nat.cast_ne_zero.2 (by omega))
  have hroot : Real.sqrt (idealDist2 h w p q) ^ (2 * ord) = (dist2 h w p q : ℝ) ^ ord := by
    rw [← dist2_cast, pow_mul, Real.sq_sqrt (Nat.cast_nonneg _)]
  rw [idealMask, div_pow, hroot]
  field_simp

theorem butterMask_denotes {h w cut : ℕ} (hh : 0 < h) (hw : 0 < w) (hcut : 1 ≤ cut) (ord p q : ℕ) :
    Frac.Denotes (rootOrder h w) (butterMask h w cut ord p q) (idealMask h w cut ord p q : ℂ) := by
  have hden : (((cut ^ (2 * ord) + dist2 h w p q ^ ord : ℕ) : ℕ) : ℤ) ≠ 0 := by positivity
  have hmask := Frac.Denotes.ratio (rootOrder_pos hh hw) ((cut ^ (2 * ord) : ℕ) : ℤ) hden
  rw [idealMask_eq _ _ _ _ _ hcut]
  push_cast at hmask ⊢
  exact hmask

/-- Settles O29: the weight is a quotient of integers, and the rule's root is squared away. -/
theorem maskIsTheButterworthWeight : Obligations.MaskIsTheButterworthWeight :=
  fun _ _ _ ord p q hh hw hcut _ => (butterMask_denotes hh hw hcut ord p q).quotient

/-- The transform is linear (R115). -/
theorem idealDft2_mul_const (h w : ℕ) (g : ℕ → ℕ → ℂ) (a : ℂ) (u v : ℕ) :
    idealDft2 h w (fun r c => g r c * a) u v = idealDft2 h w g u v * a := by
  simp only [idealDft2_eq_sum_wave, Finset.sum_mul, mul_right_comm]

/-- The spectrum of the box without its factor, over k² (R120). -/
theorem boxSpectrum_denotes {h w k : ℕ} (hh : 0 < h) (hw : 0 < w) (hk : 1 ≤ k) (u v : ℕ) :
    Frac.Denotes (rootOrder h w) (boxSpectrum h w k u v) (idealDft2 h w (idealKernel k) u v) := by
  have hk0 : (k : ℂ) ^ 2 ≠ 0 := pow_ne_zero 2 (Nat.cast_ne_zero.2 (by omega))
  have hbox : ∀ r c, r < h → c < w → (planeAt (boxCorner h w k) r c : ℂ) = idealKernel k r c * (k : ℂ) ^ 2 :=
    fun r c hr hc => by
      rw [boxCorner, planeAt_map_range (fun r c => if r < k ∧ c < k then 1 else 0) hr hc, idealKernel]
      split_ifs
      · rw [Nat.cast_one, one_div_mul_cancel hk0]
      · rw [Nat.cast_zero, zero_mul]
  have hden : Cyc.value (rootOrder h w) (boxSpectrum h w k u v).den = (k : ℂ) ^ 2 := by
    simp [boxSpectrum, Cyc.value_const (rootOrder_pos hh hw)]
  refine ⟨hden ▸ hk0, ?_⟩
  rw [hden, ← idealDft2_mul_const, ← idealDft2_congr hbox]
  exact value_dft2 hh hw _ u v

/-- The Wiener factor is defined everywhere: |Hb|² + np is positive, also where Hb = 0 (R121). -/
theorem wienerFactor_denotes {h w k np : ℕ} (hh : 0 < h) (hw : 0 < w) (hk : 1 ≤ k) (hnp : 1 ≤ np) (u v : ℕ) :
    Frac.Denotes (rootOrder h w) (wienerFactor h w k np u v) (idealWienerFactor h w k np u v) := by
  have hn := rootOrder_pos hh hw
  have hb := boxSpectrum_denotes hh hw hk u v
  have hnoise := Frac.Denotes.ratio hn (np : ℤ) (b := ((2 ^ 24 : ℕ) : ℤ)) (by decide)
  have hnp' : (0 : ℝ) < np := Nat.cast_pos.2 hnp
  have hpos : 0 < ‖idealDft2 h w (idealKernel k) u v‖ ^ 2 + (np : ℝ) / 2 ^ 24 := by positivity
  have hsum : idealDft2 h w (idealKernel k) u v * (starRingEnd ℂ) (idealDft2 h w (idealKernel k) u v) +
      ((np : ℤ) : ℂ) / (((2 ^ 24 : ℕ) : ℤ) : ℂ) =
        ((‖idealDft2 h w (idealKernel k) u v‖ ^ 2 + (np : ℝ) / 2 ^ 24 : ℝ) : ℂ) := by
    rw [Complex.mul_conj']
    norm_num
  rw [idealWienerFactor, ← hsum]
  exact hb.conj.div ((hb.mul hb.conj).add hnoise) (by rw [hsum]; exact Complex.ofReal_ne_zero.2 hpos.ne')

/-- Settles O30: the machine's quotient is the rule's, and its divisor is a positive real number. -/
theorem wienerFactorIsTheRuleQuotient : Obligations.WienerFactorIsTheRuleQuotient :=
  fun _ _ _ _ u v hk hmin hnp =>
    (wienerFactor_denotes (by omega) (by omega) hk hnp u v).quotient

end Sys2Proof.Machine
end

section
/-! SUPPORT. The pixels of BUTTER and WIENER (42_restoration_filter.md R122, R123): the search over 0..255 is `quant` of the
magnitude, so the machine's range is the rule's around the ideal value. -/

namespace Sys2Proof.Machine

/-! ### `quant` (R12, R122) -/

theorem idealQuant_mono {x y : ℝ} (h : x ≤ y) : idealQuant x ≤ idealQuant y :=
  Nat.floor_mono (min_le_min_left _ (max_le_max_left _ h))

theorem idealQuant_eq_min (x : ℝ) : idealQuant x = min 255 ⌊x⌋₊ := by
  refine eq_of_forall_le_iff fun m => ?_
  rcases Nat.eq_zero_or_pos m with rfl | hm
  · simp
  · have hm' : ¬ (m : ℝ) ≤ 0 := not_le.2 (Nat.cast_pos.2 hm)
    rw [idealQuant, Nat.le_floor_iff' hm.ne', le_min_iff, le_max_iff, or_iff_right hm', le_min_iff,
      Nat.le_floor_iff' hm.ne']
    norm_cast

/-- The search by bits finds the greatest number reached, up to the last one that its bits can make. -/
theorem greatestReached_eq {reach : ℕ → Bool} {top : ℕ} (hreach : ∀ m, 0 < m → (reach m = true ↔ m ≤ top)) (b : ℕ)
    {acc : ℕ} (hacc : acc ≤ top) : greatestReached reach b acc = min (acc + 2 ^ b - 1) top := by
  induction b generalizing acc with
  | zero => simp [greatestReached, hacc]
  | succ b ih =>
    have hpos : 0 < 2 ^ b := Nat.two_pow_pos b
    have hstep := hreach (acc + 2 ^ b) (by omega)
    rw [greatestReached, pow_succ]
    split
    · rename_i h
      rw [ih (hstep.1 h)]
      congr 1
      omega
    · rename_i h
      have hlt : top < acc + 2 ^ b := Nat.lt_of_not_le (mt hstep.2 h)
      rw [ih hacc]
      omega

section
variable {n : ℕ} {y : Frac} {z : ℂ}

/-- The machine's quant is the rule's (R122). -/
theorem Frac.Denotes.quantMagnitude (hn : 0 < n) (hy : Frac.Denotes n y z) (q : ℤ) {d : ℕ} (hd : 0 < d) :
    Machine.quantMagnitude n y q d = idealQuant (‖z‖ + q / d) := by
  have hd' : (d : ℝ) ≠ 0 := Nat.cast_ne_zero.2 hd.ne'
  have hreach : ∀ m : ℕ, 0 < m → (Frac.reaches n y ((m : ℤ) * d - q) d = true ↔ m ≤ ⌊‖z‖ + q / d⌋₊) := fun m hm => by
    have hquot : (((m : ℤ) * d - q : ℤ) : ℝ) / d = m - q / d := by
      push_cast
      field_simp
    rw [hy.reaches_iff hn _ hd, hquot, Nat.le_floor_iff' hm.ne', sub_le_iff_le_add]
  rw [Machine.quantMagnitude, greatestReached_eq hreach 8 (Nat.zero_le _), idealQuant_eq_min]
  rfl

/-- A pixel is in the range around the magnitude of its number (R123; log entry 4). -/
theorem Frac.Denotes.freqPixel_mem {p : Params} (hp : p.legal = true) (hn : 0 < n) (hy : Frac.Denotes n y z)
    (op : BitVec 8) (g : List (List ℕ)) (par : CommandPar) (r c : ℕ) :
    idealQuant (‖z‖ - freqTolLow p) ≤ freqPixel p op g par n y r c ∧
      freqPixel p op g par n y r c ≤ idealQuant (‖z‖ + freqTolHigh p) := by
  have hden : 0 < p.freqTolDen := by
    simp only [Params.legal, Params.freqTolLegal, Bool.and_eq_true, decide_eq_true_eq] at hp
    exact hp.2.1
  have hlow : Machine.quantMagnitude n y (-(p.freqTolBelow : ℤ)) p.freqTolDen = idealQuant (‖z‖ - freqTolLow p) := by
    rw [hy.quantMagnitude hn _ hden, freqTolLow, Int.cast_neg, Int.cast_natCast, neg_div, ← sub_eq_add_neg]
  have hhigh : Machine.quantMagnitude n y p.freqTolAbove p.freqTolDen = idealQuant (‖z‖ + freqTolHigh p) :=
    hy.quantMagnitude hn _ hden
  have hle : idealQuant (‖z‖ - freqTolLow p) ≤ idealQuant (‖z‖ + freqTolHigh p) := idealQuant_mono <| by
    have h0 : 0 ≤ freqTolLow p := by unfold freqTolLow; positivity
    have h1 : 0 ≤ freqTolHigh p := by unfold freqTolHigh; positivity
    linarith
  rw [← hlow, ← hhigh] at hle ⊢
  exact ⟨le_freqPixel p op g par n y r c, freqPixel_le hle op g par r c⟩

end

/-! ### The two spectra (R119) -/

theorem butterSpectrum_denotes {h w cut : ℕ} (hh : 0 < h) (hw : 0 < w) (hcut : 1 ≤ cut) (g : List (List ℕ))
    (ord r c : ℕ) :
    ∃ z, Frac.Denotes (rootOrder h w) (idft2 h w (butterSpectrum h w g cut ord) r c) z ∧
      ‖z‖ = idealButter h w (planeAt g) cut ord r c :=
  ⟨_, idft2_denotes hh hw (fun u v => (value_dft2 hh hw g u v ▸ Frac.Denotes.ofCyc (rootOrder_pos hh hw) _).mul
    (butterMask_denotes hh hw hcut ord (centred h u) (centred w v))) r c, rfl⟩

theorem wienerSpectrum_denotes {h w k np : ℕ} (hh : 0 < h) (hw : 0 < w) (hk : 1 ≤ k) (hnp : 1 ≤ np)
    (g : List (List ℕ)) (r c : ℕ) :
    ∃ z, Frac.Denotes (rootOrder h w) (idft2 h w (wienerSpectrum h w g k np) r c) z ∧
      ‖z‖ = idealWiener h w (planeAt g) k np r c :=
  ⟨_, idft2_denotes hh hw (fun u v => (wienerFactor_denotes hh hw hk hnp u v).mul
    (value_dft2 hh hw g u v ▸ Frac.Denotes.ofCyc (rootOrder_pos hh hw) _)) r c, rfl⟩

/-- Where the enclosure gives t's own range, a pixel in the one is in the other (R123; log entry 4). -/
theorem mem_range_of_sameRange {p : Params} {t x : ℝ} {o : ℕ} (hs : sameRange p t x)
    (ho : idealQuant (x - freqTolLow p) ≤ o ∧ o ≤ idealQuant (x + freqTolHigh p)) :
    idealQuant (x - t) ≤ o ∧ o ≤ idealQuant (x + t) := by
  obtain ⟨hlow, hhigh⟩ := hs
  rwa [← hlow, ← hhigh]

/-- Settles O32: the machine's number is the ideal one, and a given tolerance has the enclosure's range. -/
theorem butterPixelWithinTolerance : Obligations.ButterPixelWithinTolerance := by
  intro p h w cut ord g par r c hp hh hw hcut hord hr hc
  obtain ⟨z, hz, hx⟩ := butterSpectrum_denotes hh hw hcut g ord r c
  have hmem := hz.freqPixel_mem hp (rootOrder_pos hh hw) 0x04#8 g par r c
  rw [hx] at hmem
  refine ⟨hmem, fun t ⟨_, _, ht⟩ hhmax hwmax hcut' hord' hg => mem_range_of_sameRange ?_ hmem⟩
  exact (ht h w (planeAt g) r c hhmax hwmax hr hc hg).1 cut ord hcut hcut' hord hord'

/-- Settles O33: the same, with the Wiener spectrum. -/
theorem wienerPixelWithinTolerance : Obligations.WienerPixelWithinTolerance := by
  intro p h w k np g par r c hp hh hw hk hkmin hnp hr hc
  obtain ⟨z, hz, hx⟩ := wienerSpectrum_denotes hh hw hk hnp g r c
  have hmem := hz.freqPixel_mem hp (rootOrder_pos hh hw) 0x05#8 g par r c
  rw [hx] at hmem
  refine ⟨hmem, fun t ⟨_, _, ht⟩ hhmax hwmax hk' hnp' hg => mem_range_of_sameRange ?_ hmem⟩
  exact (ht h w (planeAt g) r c hhmax hwmax hr hc hg).2 k np hk hk' hkmin hnp hnp'

end Sys2Proof.Machine
end

section
/-! SUPPORT. The steps that leave the machine alone (60_exceptions.md R134, R144; 70_reset_and_hazards.md R145): the core's
turn with nothing in flight, and every turn of the host and the core while the reset input is asserted. -/

namespace Sys2Proof.Machine

section
variable {s : State}

/-- With nothing in flight the core has no step (R90, R144). -/
theorem coreTurn_none (h : s.inflight = none) : coreTurn s = s := by
  rw [coreTurn, complete_none s h, ite_self]

/-- While reset is asserted the core has no step, with a command in flight too (R134; log entry 8). -/
theorem coreTurn_inReset (h : s.resetAsserted = true) : coreTurn s = s := if_pos h

/-- While reset is asserted a host access in the window is answered and ignored (R145). -/
theorem step_host_inReset {a : Access} {rest : List Turn} (ht : s.turns = .host a :: rest)
    (hw : inWindow s.params a.addr = true) (hr : s.resetAsserted = true) :
    step s = .next (accessInReset a (takeTurn a rest s)) := by
  rw [step_host ht, hostAccess_inReset (by rwa [takeTurn_params]) (by rwa [takeTurn_resetAsserted])]

end

/-- Settles O60: the step with no turn waiting is the core's. -/
theorem idleCoreDoesNothing : Obligations.IdleCoreDoesNothing := by
  intro s ht hf
  rw [step_idle ht, coreTurn_none hf]

/-- Settles O46: the bus answers and does no more, and the core has no turn of its own. -/
theorem accessesIgnoredWhileResetAsserted : Obligations.AccessesIgnoredWhileResetAsserted := by
  intro s rest hr
  refine ⟨fun a ht hw => ?_, fun ht => ?_, fun ht => ?_⟩
  · cases a with
    | read addr w => exact ⟨_, datumOfBytes_width _ w, step_host_inReset ht ((inWindow_iff _ _).2 hw) hr⟩
    | write addr d => exact step_host_inReset ht ((inWindow_iff _ _).2 hw) hr
  · rw [step_core ht, coreTurn_inReset (s := s.pass rest) hr, State.pass]
  · rw [step_idle ht, coreTurn_inReset hr]

end Sys2Proof.Machine
end

section
/-! SUPPORT. The two edges of the reset input (70_reset_and_hazards.md R145; log entry 8). -/

namespace Sys2Proof.Machine

section
variable {s : State}

/-- The release of the asserted input is the hard reset (R145). -/
theorem releaseTurn_asserted (h : s.resetAsserted = true) : releaseTurn s = hardReset s := if_pos h

/-- Without an assertion before it, the release is no edge (log entry 8). -/
theorem releaseTurn_notAsserted (h : s.resetAsserted = false) : releaseTurn s = s :=
  if_neg (Bool.eq_false_iff.1 h)

/-- The hard reset leaves every byte of pixel memory unspecified (R145). -/
theorem read_hardReset (a : Nat) : Memory.read (hardReset s).pmem a = none := by
  rw [hardReset_pmem, Memory.read_nil]

end

/-- Settles O45, by the edge: the assertion is recorded, the release of the asserted input is the hard reset, and any
other release only takes its turn. -/
theorem hardResetForgetsPixelMemory : Obligations.HardResetForgetsPixelMemory := by
  intro s rest
  refine ⟨fun ht => ?assertion, fun ht hr => ?release, fun ht hr => ?noEdge⟩
  case assertion => rw [step_assertReset ht, State.advance]
  case release =>
    have hstep : step s = .next (hardReset (s.pass rest)) := by
      rw [step_releaseReset ht, releaseTurn_asserted (by rwa [State.pass_resetAsserted])]
    exact ⟨_, hstep, hardReset_regs _, hardReset_inflight _, hardReset_params _, hardReset_turns _,
      hardReset_resetAsserted _, hardReset_resp _, read_hardReset⟩
  case noEdge =>
    rw [step_releaseReset ht, releaseTurn_notAsserted (by rwa [State.pass_resetAsserted]), State.pass]

end Sys2Proof.Machine
end
